-- ==== Sys2Proof/Word.lean ====
section
/-! DEFINITION. The words of the block (00_scope.md R10). -/

namespace Sys2Proof

/-- Every register of the window is 8 bits (R10). -/
abbrev Byte := BitVec 8

/-- A system address, 32 bits (R10, R90). -/
abbrev Addr := BitVec 32

/-- A controller-internal flash address, 24 bits (R10, R90). -/
abbrev IAddr := BitVec 24

/-- A result code, 16 bits: a word of bit flags, not a closed enumeration (R10, R302). -/
abbrev Code := BitVec 16

/-- The number of an FCCOB slot, 0x0..0xB (R7, R122). -/
abbrev Slot := Fin 12

/-- Twelve bytes, one for each FCCOB slot. -/
abbrev Slots := Vector Byte 12

end Sys2Proof
end

