-- ==== Sys2Proof/Syntax.lean ====
section
/-! DEFINITION. The instructions of the block: one constructor for each row of spec/opcode_table.json,
and the request records that spell them (30_encoding.md R133). -/

namespace Sys2Proof

/-- The 18 listed command opcodes (R130). -/
inductive Opcode where
  | verifyBlock | verifySection | programCheck | readResource | programLongword | programPhrase
  | eraseBlock | eraseSector | programSection | verifyAllBlock | readOnce | programOnce
  | eraseAllBlock | securityBypass | pFlashSwap | eraseAllBlockUnsecure | programPartition | setEERAM
deriving DecidableEq, Repr

/-- A request to the block (R133). `execute n p`: `n` is the index of the last slot written, `p` the
twelve bytes, `p[0]` the opcode. `swap addr`: the system address of the swap indicator. -/
inductive Request where
  | execute (n : BitVec 4) (p : Slots)
  | swap (addr : Addr)
deriving DecidableEq, Repr

/-- The instructions (92 D1): the 18 commands with their operands (R126), the four swap sub-commands
(R224, R225, R227, R228), and the two requests (R150, R220). -/
inductive Instr where
  /-- R190. `a`: internal address of the block. `margin`: margin level. -/
  | verifyBlock (a : IAddr) (margin : Byte)
  /-- R191. `count`: number of units. -/
  | verifySection (a : IAddr) (count : BitVec 16) (margin : Byte)
  /-- R192. `expected`: the expected longword. -/
  | programCheck (a : IAddr) (margin : Byte) (expected : BitVec 32)
  /-- R193. `sel`: resource select code. -/
  | readResource (a : IAddr) (sel : Byte)
  /-- R194. `v`: the longword to program. -/
  | programLongword (a : IAddr) (v : BitVec 32)
  /-- R195. `v0` is the longword at the lower address. -/
  | programPhrase (a : IAddr) (v0 v1 : BitVec 32)
  /-- R196. -/
  | eraseBlock (a : IAddr)
  /-- R197. -/
  | eraseSector (a : IAddr)
  /-- R198. `count`: number of units. -/
  | programSection (a : IAddr) (count : BitVec 16)
  /-- R199. -/
  | verifyAllBlock (margin : Byte)
  /-- R200. `index`: record index. -/
  | readOnce (index : Byte)
  /-- R201. -/
  | programOnce (index : Byte) (v : BitVec 32)
  /-- R202. -/
  | eraseAllBlock
  /-- R203. `key`: the 8-byte backdoor key, byte 0 first. -/
  | securityBypass (key : Vector Byte 8)
  /-- R204, the generic form: a swap-control command whose code is none of the four of R127. -/
  | pFlashSwap (a : IAddr) (code : Byte)
  /-- R224. -/
  | pFlashSwapReportStatus (a : IAddr)
  /-- R225. -/
  | pFlashSwapSetIndicatorAddress (a : IAddr)
  /-- R227. -/
  | pFlashSwapSetInPrepare (a : IAddr)
  /-- R228. -/
  | pFlashSwapSetInComplete (a : IAddr)
  /-- R207. -/
  | eraseAllBlockUnsecure
  /-- R205. `eeeCode`: EEE data size code. `departCode`: D-Flash partition code. -/
  | programPartition (eeeCode departCode : Byte)
  /-- R206. `ctl`: control code. -/
  | setEERAM (ctl : Byte)
  /-- R150. Any command object that is not in a layout of R126. -/
  | execute (n : BitVec 4) (p : Slots)
  /-- R220. -/
  | swap (addr : Addr)
deriving DecidableEq, Repr

/-- The 22 registers of the window (R30). -/
inductive Reg where
  | fstat | fcnfg | fsec | fopt
  | fccob (i : Slot)
  | fprot (i : Fin 4)
  | fdprot | feprot
deriving DecidableEq, Repr

end Sys2Proof
end

