-- ==== Sys2Proof/Machine/Layout.lean ====
section
/-! DEFINITION. The type of the parameter P_LAYOUT (00_scope.md R9), and its default, the table of
30_encoding.md R126. -/

namespace Sys2Proof

/-- P_LAYOUT of one opcode (R9): the `n` the requester passes, and the slots of the command's operand bytes in
the order the rows of R126 list them (the address bytes most significant first, then the rest). The other
slots of the object hold 0 (R192). -/
structure LayoutRow where
  n      : Slot
  params : List Slot
deriving DecidableEq, Repr

/-- P_LAYOUT (R9): a row for each listed opcode (R130). -/
structure Layout where
  verifyBlock : LayoutRow
  verifySection : LayoutRow
  programCheck : LayoutRow
  readResource : LayoutRow
  programLongword : LayoutRow
  programPhrase : LayoutRow
  eraseBlock : LayoutRow
  eraseSector : LayoutRow
  programSection : LayoutRow
  verifyAllBlock : LayoutRow
  readOnce : LayoutRow
  programOnce : LayoutRow
  eraseAllBlock : LayoutRow
  securityBypass : LayoutRow
  pFlashSwap : LayoutRow
  eraseAllBlockUnsecure : LayoutRow
  programPartition : LayoutRow
  setEERAM : LayoutRow
deriving DecidableEq, Repr

/-- The default of P_LAYOUT: the table R126. -/
def Layout.standard : Layout where
  verifyBlock := ⟨4, [1, 2, 3, 4]⟩
  verifySection := ⟨6, [1, 2, 3, 4, 5, 6]⟩
  programCheck := ⟨11, [1, 2, 3, 4, 8, 9, 10, 11]⟩
  readResource := ⟨8, [1, 2, 3, 8]⟩
  programLongword := ⟨7, [1, 2, 3, 4, 5, 6, 7]⟩
  programPhrase := ⟨11, [1, 2, 3, 4, 5, 6, 7, 8, 9, 10, 11]⟩
  eraseBlock := ⟨3, [1, 2, 3]⟩
  eraseSector := ⟨3, [1, 2, 3]⟩
  programSection := ⟨5, [1, 2, 3, 4, 5]⟩
  verifyAllBlock := ⟨1, [1]⟩
  readOnce := ⟨1, [1]⟩
  programOnce := ⟨7, [1, 4, 5, 6, 7]⟩
  eraseAllBlock := ⟨0, []⟩
  securityBypass := ⟨11, [4, 5, 6, 7, 8, 9, 10, 11]⟩
  pFlashSwap := ⟨4, [1, 2, 3, 4]⟩
  eraseAllBlockUnsecure := ⟨0, []⟩
  programPartition := ⟨5, [4, 5]⟩
  setEERAM := ⟨1, [1]⟩

/-- The row of an opcode. -/
def Layout.row (l : Layout) : Opcode → LayoutRow
  | .verifyBlock => l.verifyBlock
  | .verifySection => l.verifySection
  | .programCheck => l.programCheck
  | .readResource => l.readResource
  | .programLongword => l.programLongword
  | .programPhrase => l.programPhrase
  | .eraseBlock => l.eraseBlock
  | .eraseSector => l.eraseSector
  | .programSection => l.programSection
  | .verifyAllBlock => l.verifyAllBlock
  | .readOnce => l.readOnce
  | .programOnce => l.programOnce
  | .eraseAllBlock => l.eraseAllBlock
  | .securityBypass => l.securityBypass
  | .pFlashSwap => l.pFlashSwap
  | .eraseAllBlockUnsecure => l.eraseAllBlockUnsecure
  | .programPartition => l.programPartition
  | .setEERAM => l.setEERAM

/-- How many operand bytes a command has: the operands of its row in R126. -/
def Opcode.arity : Opcode → Nat
  | .verifyBlock => 4
  | .verifySection => 6
  | .programCheck => 8
  | .readResource => 4
  | .programLongword => 7
  | .programPhrase => 11
  | .eraseBlock => 3
  | .eraseSector => 3
  | .programSection => 5
  | .verifyAllBlock => 1
  | .readOnce => 1
  | .programOnce => 5
  | .eraseAllBlock => 0
  | .securityBypass => 8
  | .pFlashSwap => 4
  | .eraseAllBlockUnsecure => 0
  | .programPartition => 2
  | .setEERAM => 1

end Sys2Proof
end

