-- ==== Sys2Proof/Config.lean ====
section
/-! DEFINITION. What is fixed for a run (00_scope.md R8, R9): the FlashConfig fields and the derivative
parameters; and what is drawn (R13 `draw`): the inputs of a step, with the one opaque constant that
supplies an input where none is given. -/

namespace Sys2Proof

/-! ## Parameters (R8, R9) -/

/-- P_ENDIAN (R97). -/
inductive Endian where
  | le | be
deriving DecidableEq, Repr

/-- P_SWAP_WAIT_MODE (R9, R230). -/
inductive WaitMode where
  | rereadFccob5 | reissueReport
deriving DecidableEq, Repr

/-- The five swap states (R61). `ready` is also called Initialized (C11). -/
inductive SwapState where
  | uninitialized | ready | update | updateErased | complete
deriving DecidableEq, Repr

/-- The controller's hidden protection mode (R62). -/
inductive ProtMode where
  | normal | special
deriving DecidableEq, Repr

/-- P_SWAP_CODE: the four swap-control codes (R127). -/
structure SwapCodes where
  report   : Byte
  setInd   : Byte
  setPrep  : Byte
  setComp  : Byte
deriving DecidableEq, Repr

/-- P_SWAP_STATE: the FCCOB5 codes of the five swap states (R127). -/
structure SwapStateCodes where
  uninit       : Byte
  ready        : Byte
  update       : Byte
  updateErased : Byte
  complete     : Byte
deriving DecidableEq, Repr

/-- P_ALIGN(op) for the operations whose alignment the spec leaves to the derivative (R9, R261).
Longword is 4 and phrase is 8 (R7), ProgramCheck checks units of 4 (R268), EraseSector the sector size
of the region (R266). -/
structure Alignments where
  verifyBlock    : Addr
  verifySection  : Addr
  eraseBlock     : Addr
  programSection : Addr
deriving DecidableEq, Repr

/-- FlashConfig (R8) and the derivative descriptor (R9). Not state of the block but a parameter of every
step (R65). State holds one, so that a claim about every state is a claim about every configuration
(log 1); only FlashInit writes it (R282, R346). -/
structure Config where
  regBase       : Addr
  pflashBase    : Addr
  pflashSize    : Addr
  dflashBase    : Addr
  dflashSize    : Addr
  eeramBase     : Addr
  eeramSize     : Addr
  eeeSize       : Addr
  debugEnable   : Bool
  /-- P_CALLBACK is some routine (R8, R162). -/
  callback      : Bool
  /-- P_ENDIAN: selects the register offsets and the packing of values (R97). -/
  endian        : Endian
  /-- The two alternate layouts of the register window (R97 a, R100), by register number (`Reg.index`):
  P_OFFSET is the one P_ENDIAN selects (`Config.offset`). -/
  offsetLE      : Vector Byte 22
  offsetBE      : Vector Byte 22
  psectorSize   : Addr
  dsectorSize   : Addr
  pblockSize    : Addr
  dblockSize    : Addr
  align         : Alignments
  /-- P_LAYOUT (R126). -/
  layout        : Layout
  dflashPhysSize : Addr
  ifrAddr       : IAddr
  departTable   : Vector Addr 16
  eeeSizeTable  : Vector Addr 16
  swapCode      : SwapCodes
  swapState     : SwapStateCodes
  /-- P_FCF_LO, P_FCF_HI: offsets from P_PFLASH_BASE, half-open (R222). -/
  fcfLo         : Addr
  fcfHi         : Addr
  waitMode      : WaitMode
  unsecureMask  : Byte
  unsecureValue : Byte
  /-- P_FPROT_ORDER: the FPROT register numbers from the most significant byte of the 32-bit
  P-Flash protection value to the least (R275). -/
  fprotOrder    : Vector (Fin 4) 4
  ifrSel        : Byte
  departSlot    : Slot
  eeeSizeSlot   : Slot
  /-- P_FAILDATA_SLOTS (R268). DESIGN CHOICE: a list, whose order is that of the reads (log 57). -/
  failDataSlots : List Slot
  /-- The slots ReadOnce's record is read from: a parameter (R200, 93 I31). -/
  onceSlots     : List Slot
  /-- The slots ReadResource's returned bytes are read from: a parameter (R193; log 28). -/
  resourceSlots : List Slot
  /-- The unit of section counts, in bytes: a parameter (R191, R198, 93 I31). -/
  sectionUnit   : Addr
deriving DecidableEq, Repr

/-- The number of a register in the order of R30, which indexes the offset layouts. -/
def Reg.index : Reg → Fin 22
  | .fstat => 0
  | .fcnfg => 1
  | .fsec => 2
  | .fopt => 3
  | .fccob i => ⟨4 + i.val, by omega⟩
  | .fprot i => ⟨16 + i.val, by omega⟩
  | .fdprot => 20
  | .feprot => 21

/-! ## Draws (R13 `draw`, R14, R170) -/

/-- The outcome of a completion (R170): the set `f` of flags, the partial map `ret` from slots to bytes,
and the command's effect on what is abstract: the arrays, the information row, the EERAM function,
the security state, the byte FCNFG and the swap state. Every value is possible (P_NVM_OUTCOME's
default). -/
structure NvmOutcome where
  rdcolerr  : Bool
  accerr    : Bool
  fpviol    : Bool
  mgstat0   : Bool
  ret       : Vector (Option Byte) 12
  flash     : List Host.Cell
  ifr       : List Host.Cell
  eeram     : Option Byte
  fsec      : Option Byte
  fcnfg     : Option Byte
  swapState : Option SwapState
deriving DecidableEq, Repr

/-- The two FSMs of the block. -/
inductive Fsm where
  | seq | swp
deriving DecidableEq, Repr

/-- Who offers requests on SEQ's one request port, and receives their `Done` (R45, R152). -/
inductive Owner where
  | host | swp
deriving DecidableEq, Repr

/-- The three protection values of R275. -/
inductive ProtRegion where
  | pflash | dflash | eeram
deriving DecidableEq, Repr

/-- The procedures of HOST (43_requester_interface.md). `request` is the bare notation `exec`, `swap`
of R135; the rest are the wrappers, setters, getters and access primitives. -/
inductive Proc where
  | request (r : Request)
  /-- R266. -/
  | eraseSector (dest size : Addr)
  /-- R267. `src`: the longwords of the source buffer, lowest address first (R129). -/
  | programLongword (dest size : Addr) (src : List (BitVec 32))
  /-- R267. -/
  | programPhrase (dest size : Addr) (src : List (BitVec 32))
  /-- R268. -/
  | programCheck (dest size : Addr) (expected : List (BitVec 32)) (margin : Byte)
  /-- R196: which procedure issues 0x08 is not in the source, and this one is the model's (log 47). -/
  | eraseBlock (dest size : Addr)
  /-- R269, R190. It takes no size (log 58). -/
  | verifyBlock (dest : Addr) (margin : Byte)
  /-- R269, R191. It takes a count of units (log 61). -/
  | verifySection (dest : Addr) (count : BitVec 16) (margin : Byte)
  /-- R269, R198. It takes a count of units (log 61). -/
  | programSection (dest : Addr) (count : BitVec 16)
  /-- R269, R199. -/
  | verifyAllBlock (margin : Byte)
  /-- R269, R202. -/
  | eraseAllBlock
  /-- R269, R200. -/
  | readOnce (index : Byte)
  /-- R269, R201. -/
  | programOnce (index : Byte) (v : BitVec 32)
  /-- R269, R205. -/
  | deFlashPartition (eeeCode departCode : Byte)
  /-- R269, R206. -/
  | setEEEEnable (ctl : Byte)
  /-- R136 `read_resource`. -/
  | readResource (a : IAddr) (sel : Byte)
  /-- R136 `pflash_swap`, R220. -/
  | pflashSwap (addr : Addr)
  /-- R276. An 8-bit protection value is the low byte of `v`. -/
  | setProtection (p : ProtRegion) (v : BitVec 32)
  /-- R275. -/
  | getProtection (p : ProtRegion)
  /-- R282. -/
  | flashInit
  /-- R284. -/
  | getSecurityState
  /-- R285. -/
  | securityBypass (key : Vector Byte 8)
  /-- R92. -/
  | testBit (r : Reg) (m : Byte)
  /-- R92. -/
  | setBit (r : Reg) (m : Byte)
  /-- R92. -/
  | clearBit (r : Reg) (m : Byte)
  /-- R287: named in the source, no protocol. -/
  | eraseSuspend
  /-- R287. -/
  | eraseResume
  /-- R287. -/
  | eeeWrite
deriving DecidableEq, Repr

/-- The draw of a wrapper's capability check (R205, R206, 93 I27): whether it fails, and which of the
codes the wrapper's rule lists it then returns (`pick` counts through that list). -/
structure CapDraw where
  fails : Bool
  pick  : Nat
deriving DecidableEq, Repr

/-- What HOST does in one step: start a procedure, go on with the one it runs, or make one access to a
register or one read or fetch of an array byte from other code of the surrounding system (R164, R106,
R307). -/
inductive ReqMove where
  | call (p : Proc) (cap : CapDraw)
  | go
  | read (r : Reg)
  | write (r : Reg) (v : Byte)
  | arrayRead (addr : Addr)
deriving DecidableEq, Repr

/-- What the callback does (R162): it returns, or reads data from or executes at an address (R344); and the
two things it must not do (R163). -/
inductive CbMove where
  | ret
  | arrayRead (addr : Addr)
  | access (r : Reg)
  | request (r : Request)
deriving DecidableEq, Repr

/-- The values a run starts with that the spec leaves to the launch (R331): FSTAT, the opaque bytes and
data registers, and the launch parameters of R9. -/
structure Launch where
  fstat     : Byte
  fcnfg     : Byte
  fsec      : Byte
  fopt      : Byte
  fccob     : Slots
  fprot     : Vector Byte 4
  fdprot    : Byte
  feprot    : Byte
  protMode  : ProtMode
  swapState : SwapState
  nvmCmd    : Slots
  seqN      : Slot
  seqBuf    : Slots
  seqK      : Slot
  seqFstat  : Byte
  seqResult : Code
  seqOwner  : Owner
  swpAddr   : Addr
  swpMode   : Byte
  swpPhase  : BitVec 2
  swpResult : Code
deriving DecidableEq, Repr

/-- Which agent moves in a step, with the draws of its move. Agents interleave arbitrarily (R14). -/
inductive Move where
  /-- SEQ takes its step (R150). -/
  | seq
  /-- SWP takes its step (R220). -/
  | swp
  /-- The controller completes the command in flight (R170). -/
  | nvm (o : NvmOutcome)
  /-- The callback (R162, R163). -/
  | cb (m : CbMove)
  /-- HOST (43_requester_interface.md). -/
  | host (m : ReqMove)
  /-- The environment event DebugResume (R320). -/
  | debugResume (f : Fsm)
  /-- The reset event (R330-R332), with the values the new run starts with (R331). -/
  | reset (l : Launch)
  /-- The surrounding system enters a low-power state (R325, 93 I22). -/
  | lowPower
deriving DecidableEq, Repr, Inhabited

/-- The input of one step: the move, and what FSTAT bits 3:1 read as during it (R35: a draw). -/
structure Input where
  rsv  : BitVec 3
  move : Move
deriving DecidableEq, Repr, Inhabited

/-- The inputs of the steps for which State lists none: FREE VALUES. Nothing is known of which agent
moves then or of what its move draws (R14, R170; log 39). -/
opaque Config.freeInput : Nat → Input

/-- What FCNFG holds after a write of HOST: FREE VALUES. R36 gives the write no effect and no fault (log 52). -/
opaque Config.freeFcnfg : Nat → Byte

end Sys2Proof
end

