-- ==== Sys2Proof/Machine/Standard.lean ====
section
/-! DEFINITION. The configuration and the launch values State.reset takes, where the spec leaves them open. -/

namespace Sys2Proof

/-- The LE layout of R100 (general knowledge): FSTAT, FCNFG, FSEC, FOPT, FCCOB0..B, FPROT0..3,
FDPROT, FEPROT. -/
def offsetsLE : Vector Byte 22 :=
  #v[0x00, 0x01, 0x02, 0x03,
     0x07, 0x06, 0x05, 0x04, 0x0B, 0x0A, 0x09, 0x08, 0x0F, 0x0E, 0x0D, 0x0C,
     0x13, 0x12, 0x11, 0x10, 0x17, 0x16]

/-- The BE layout of R100 (general knowledge). -/
def offsetsBE : Vector Byte 22 :=
  #v[0x00, 0x01, 0x02, 0x03,
     0x04, 0x05, 0x06, 0x07, 0x08, 0x09, 0x0A, 0x0B, 0x0C, 0x0D, 0x0E, 0x0F,
     0x10, 0x11, 0x12, 0x13, 0x17, 0x16]

/-- The configuration State.reset holds: CFG-A of 95_test_vectors.md with the instance of P1 and V33
and the general-knowledge defaults of R127, I5 and I9. DESIGN CHOICE (log 1): no claim rests on it. The values
that none of these gives are the model's own (log 62): the EERAM range and size, the block sizes, the
alignments of `align`, the physical D-Flash and the partition tables; and, with logs of their own,
P_FPROT_ORDER (log 29), the read-back slots (logs 28, 57) and the section unit (log 27). -/
def Config.standard : Config where
  regBase := 0x40020000
  pflashBase := 0x00000000
  pflashSize := 0x00100000
  dflashBase := 0x10000000
  dflashSize := 0x00020000
  eeramBase := 0x14000000
  eeramSize := 0x00001000
  eeeSize := 0x00000000
  debugEnable := false
  callback := false
  endian := .le
  offsetLE := offsetsLE
  offsetBE := offsetsBE
  psectorSize := 0x1000
  dsectorSize := 0x400
  pblockSize := 0x00020000
  dblockSize := 0x00020000
  align := { verifyBlock := 0x20000, verifySection := 8, eraseBlock := 0x20000, programSection := 8 }
  layout := Layout.standard
  dflashPhysSize := 0x00020000
  ifrAddr := 0x8000FC
  departTable := Vector.replicate 16 0x00020000
  eeeSizeTable := Vector.replicate 16 0
  swapCode := { report := 0x08, setInd := 0x01, setPrep := 0x02, setComp := 0x04 }
  swapState := { uninit := 0x00, ready := 0x01, update := 0x02, updateErased := 0x03, complete := 0x04 }
  fcfLo := 0x400
  fcfHi := 0x410
  waitMode := .rereadFccob5
  unsecureMask := 0x03
  unsecureValue := 0x02
  fprotOrder := #v[0, 1, 2, 3]
  ifrSel := 0
  departSlot := 7
  eeeSizeSlot := 6
  failDataSlots := [4, 5, 6, 7]
  onceSlots := [4, 5, 6, 7]
  resourceSlots := [4, 5, 6, 7]
  sectionUnit := 8

/-- The launch values State.reset takes: FSTAT 0x80 (R48's special case), and a value for each register
the spec gives none for (logs 4, 6, 7, 8, 9). -/
def Launch.standard : Launch where
  fstat := 0x80
  fcnfg := 0x00
  fsec := 0xFE
  fopt := 0x00
  fccob := Vector.replicate 12 0
  fprot := Vector.replicate 4 0xFF
  fdprot := 0xFF
  feprot := 0xFF
  protMode := .normal
  swapState := .uninitialized
  nvmCmd := Vector.replicate 12 0
  seqN := 0
  seqBuf := Vector.replicate 12 0
  seqK := 0
  seqFstat := 0
  seqResult := 0
  seqOwner := .host
  swpAddr := 0
  swpMode := 0
  swpPhase := 0
  swpResult := 0

end Sys2Proof
end

