-- ==== Sys2Proof/Machine/Operands.lean ====
section
/-! DEFINITION. Operand forms: opcode bytes, address bytes, packing of values, and the FCCOB layout of
each command (30_encoding.md R120-R129). -/

namespace Sys2Proof

/-- P_OFFSET: the layout of the window that P_ENDIAN selects (R97 a, R100). -/
def Config.offset (c : Config) : Vector Byte 22 :=
  match c.endian with
  | .le => c.offsetLE
  | .be => c.offsetBE

end Sys2Proof

namespace Sys2Proof.Machine

/-- The opcode bytes (R130). -/
def opcodeByte : Opcode → Byte
  | .verifyBlock => 0x00
  | .verifySection => 0x01
  | .programCheck => 0x02
  | .readResource => 0x03
  | .programLongword => 0x06
  | .programPhrase => 0x07
  | .eraseBlock => 0x08
  | .eraseSector => 0x09
  | .programSection => 0x0B
  | .verifyAllBlock => 0x40
  | .readOnce => 0x41
  | .programOnce => 0x43
  | .eraseAllBlock => 0x44
  | .securityBypass => 0x45
  | .pFlashSwap => 0x46
  | .eraseAllBlockUnsecure => 0x49
  | .programPartition => 0x80
  | .setEERAM => 0x81

/-- Every listed opcode (R130). -/
def opcodes : List Opcode :=
  [.verifyBlock, .verifySection, .programCheck, .readResource, .programLongword, .programPhrase,
   .eraseBlock, .eraseSector, .programSection, .verifyAllBlock, .readOnce, .programOnce,
   .eraseAllBlock, .securityBypass, .pFlashSwap, .eraseAllBlockUnsecure, .programPartition, .setEERAM]

/-- The listed opcode a byte spells by all its 8 bits, or none (R123, R130, R131). -/
def opcodeOf (b : Byte) : Option Opcode :=
  opcodes.find? fun o => opcodeByte o = b

/-! ## Fields -/

/-- `A(a)`: the address bytes, most significant first (R124). -/
def addrBytes (a : IAddr) : List Byte :=
  [a.extractLsb' 16 8, a.extractLsb' 8 8, a.extractLsb' 0 8]

/-- A unit count, most significant byte first (R126, R129). -/
def countBytes (c : BitVec 16) : List Byte :=
  [c.extractLsb' 8 8, c.extractLsb' 0 8]

/-- `pack_N(v)`: the FCCOB image of an N-byte value (R128): least significant byte first in LE, most
significant byte first in BE. -/
def packBytes (e : Endian) (N : Nat) (v : BitVec (8 * N)) : List Byte :=
  (List.range N).map fun j =>
    match e with
    | .le => v.extractLsb' (8 * j) 8
    | .be => v.extractLsb' (8 * (N - 1 - j)) 8

/-- `pack_4(v)` (R125, R128). -/
def pack4 (e : Endian) (v : BitVec 32) : List Byte := packBytes e 4 v

/-- The longword whose `pack_4` image is `b0 b1 b2 b3` (R128). -/
def unpack4 (e : Endian) (b0 b1 b2 b3 : Byte) : BitVec 32 :=
  match e with
  | .le => b3 ++ b2 ++ b1 ++ b0
  | .be => b0 ++ b1 ++ b2 ++ b3

/-! ## Command objects -/

/-- A command object (R120): the index of the last slot written and the slot bytes. -/
structure CommandObject where
  n : Slot
  p : Slots
deriving DecidableEq, Repr

/-- The twelve slots with the given contents. -/
def slotsOf (f : Slot → Byte) : Slots :=
  #v[f 0, f 1, f 2, f 3, f 4, f 5, f 6, f 7, f 8, f 9, f 10, f 11]

/-- The object whose slots hold the bytes of a list in order; the slots past its end hold 0. -/
def objectOf (n : Slot) (l : List Byte) : CommandObject where
  n := n
  p := slotsOf fun i => l.getD i.val 0

/-- The object of a command in a layout: the opcode in FCCOB0, operand byte `j` in the `j`-th slot of the row,
0 in every other slot (R120, R126, R192). -/
def laidOut (r : LayoutRow) (op : Byte) (bytes : List Byte) : CommandObject where
  n := r.n
  p := slotsOf fun i =>
    if i = 0 then op
    else if r.params.contains i then bytes.getD (r.params.idxOf i) 0
    else 0

/-- The object a requester builds for a command, in P_LAYOUT (R9). -/
def commandOf (cfg : Config) (o : Opcode) (bytes : List Byte) : CommandObject :=
  laidOut (cfg.layout.row o) (opcodeByte o) bytes

/-- R126, 0x00. -/
def objVerifyBlock (cfg : Config) (a : IAddr) (margin : Byte) : CommandObject :=
  commandOf cfg .verifyBlock (addrBytes a ++ [margin])

/-- R126, 0x01. -/
def objVerifySection (cfg : Config) (a : IAddr) (count : BitVec 16) (margin : Byte) : CommandObject :=
  commandOf cfg .verifySection (addrBytes a ++ countBytes count ++ [margin])

/-- R126, 0x02; the default leaves 0 in FCCOB5..7 (R192). -/
def objProgramCheck (cfg : Config) (a : IAddr) (margin : Byte) (expected : BitVec 32) : CommandObject :=
  commandOf cfg .programCheck (addrBytes a ++ [margin] ++ pack4 cfg.endian expected)

/-- R126, 0x03; the default leaves 0 in FCCOB4..7 (R193). -/
def objReadResource (cfg : Config) (a : IAddr) (sel : Byte) : CommandObject :=
  commandOf cfg .readResource (addrBytes a ++ [sel])

/-- R126, 0x06. -/
def objProgramLongword (cfg : Config) (a : IAddr) (v : BitVec 32) : CommandObject :=
  commandOf cfg .programLongword (addrBytes a ++ pack4 cfg.endian v)

/-- R126, 0x07. -/
def objProgramPhrase (cfg : Config) (a : IAddr) (v0 v1 : BitVec 32) : CommandObject :=
  commandOf cfg .programPhrase (addrBytes a ++ pack4 cfg.endian v0 ++ pack4 cfg.endian v1)

/-- R126, 0x08. -/
def objEraseBlock (cfg : Config) (a : IAddr) : CommandObject :=
  commandOf cfg .eraseBlock (addrBytes a)

/-- R126, 0x09. -/
def objEraseSector (cfg : Config) (a : IAddr) : CommandObject :=
  commandOf cfg .eraseSector (addrBytes a)

/-- R126, 0x0B. -/
def objProgramSection (cfg : Config) (a : IAddr) (count : BitVec 16) : CommandObject :=
  commandOf cfg .programSection (addrBytes a ++ countBytes count)

/-- R126, 0x40. -/
def objVerifyAllBlock (cfg : Config) (margin : Byte) : CommandObject :=
  commandOf cfg .verifyAllBlock [margin]

/-- R126, 0x41. -/
def objReadOnce (cfg : Config) (index : Byte) : CommandObject :=
  commandOf cfg .readOnce [index]

/-- R126, 0x43; the default leaves 0 in FCCOB2..3 (R201). -/
def objProgramOnce (cfg : Config) (index : Byte) (v : BitVec 32) : CommandObject :=
  commandOf cfg .programOnce ([index] ++ pack4 cfg.endian v)

/-- R126, 0x44. -/
def objEraseAllBlock (cfg : Config) : CommandObject :=
  commandOf cfg .eraseAllBlock []

/-- R126, 0x45; the default leaves 0 in FCCOB1..3 (R203). -/
def objSecurityBypass (cfg : Config) (key : Vector Byte 8) : CommandObject :=
  commandOf cfg .securityBypass key.toList

/-- R126, 0x46 (R204, R223). -/
def objPFlashSwap (cfg : Config) (a : IAddr) (code : Byte) : CommandObject :=
  commandOf cfg .pFlashSwap (addrBytes a ++ [code])

/-- R126, 0x49. -/
def objEraseAllBlockUnsecure (cfg : Config) : CommandObject :=
  commandOf cfg .eraseAllBlockUnsecure []

/-- R126, 0x80; the default leaves 0 in FCCOB1..3 (R205). -/
def objProgramPartition (cfg : Config) (eeeCode departCode : Byte) : CommandObject :=
  commandOf cfg .programPartition [eeeCode, departCode]

/-- R126, 0x81. -/
def objSetEERAM (cfg : Config) (ctl : Byte) : CommandObject :=
  commandOf cfg .setEERAM [ctl]

/-! ## Reading the operands of an object -/

/-- Operand byte `j` of a command in a layout. -/
def fieldByte (r : LayoutRow) (p : Slots) (j : Nat) : Byte :=
  match r.params[j]? with
  | some i => p.get i
  | none => 0

/-- The address a command carries (R124): its first three operand bytes. -/
def addrIn (cfg : Config) (o : Opcode) (p : Slots) : IAddr :=
  fieldByte (cfg.layout.row o) p 0 ++ fieldByte (cfg.layout.row o) p 1 ++ fieldByte (cfg.layout.row o) p 2

/-- The unit count after the address, high byte first (R126, R129). -/
def countIn (cfg : Config) (o : Opcode) (p : Slots) : BitVec 16 :=
  fieldByte (cfg.layout.row o) p 3 ++ fieldByte (cfg.layout.row o) p 4

/-- The longword whose packed image is the four operand bytes from `j` (R128). -/
def longIn (cfg : Config) (o : Opcode) (p : Slots) (j : Nat) : BitVec 32 :=
  unpack4 cfg.endian (fieldByte (cfg.layout.row o) p j) (fieldByte (cfg.layout.row o) p (j + 1))
    (fieldByte (cfg.layout.row o) p (j + 2)) (fieldByte (cfg.layout.row o) p (j + 3))

/-- The slots 0..11 in order (R122). -/
def allSlots : List Slot := [0, 1, 2, 3, 4, 5, 6, 7, 8, 9, 10, 11]

/-- Whether an EXECUTE request is a command in its layout: a listed opcode, the layout's `n`, and 0 in every
slot the layout does not use (log 23). -/
def inLayout (cfg : Config) (n : BitVec 4) (p : Slots) : Bool :=
  match opcodeOf p[0] with
  | none => false
  | some o =>
    n.toNat == (cfg.layout.row o).n.val &&
      allSlots.all fun i => i == 0 || (cfg.layout.row o).params.contains i || p.get i == 0

end Sys2Proof.Machine
end

