-- ==== Sys2Proof/WellFormed.lean ====
section
/-! DEFINITION. Well-formed instructions, and the configuration premises of 00_scope.md R11. -/

namespace Sys2Proof

open Machine

/-- One of the four codes of R127. -/
def SwapCodes.has (c : SwapCodes) (b : Byte) : Bool :=
  b == c.report || b == c.setInd || b == c.setPrep || b == c.setComp

/-- An instruction that is the canonical reading of a request: `execute` has `n <= 11` (R151) and is in no
layout of P_LAYOUT; the generic `pFlashSwap` carries none of the four codes of R127. Every other operand
value is well formed. -/
def Instr.wf (cfg : Config) : Instr → Bool
  | .execute n p => n.toNat ≤ 11 && !inLayout cfg n p
  | .pFlashSwap _ code => !cfg.swapCode.has code
  | .verifyBlock _ _ | .verifySection _ _ _ | .programCheck _ _ _ | .readResource _ _
  | .programLongword _ _ | .programPhrase _ _ _ | .eraseBlock _ | .eraseSector _
  | .programSection _ _ | .verifyAllBlock _ | .readOnce _ | .programOnce _ _ | .eraseAllBlock
  | .securityBypass _ | .pFlashSwapReportStatus _ | .pFlashSwapSetIndicatorAddress _
  | .pFlashSwapSetInPrepare _ | .pFlashSwapSetInComplete _ | .eraseAllBlockUnsecure
  | .programPartition _ _ | .setEERAM _ | .swap _ => true

/-- The four control codes are told apart by FCCOB4 (R127, R134). DEDUCED (log 45). -/
def SwapCodes.distinct (c : SwapCodes) : Bool :=
  [c.report, c.setInd, c.setPrep, c.setComp].Nodup

/-- The five swap-state codes name five states (R61, R127). DEDUCED (log 45). -/
def SwapStateCodes.distinct (c : SwapStateCodes) : Bool :=
  [c.uninit, c.ready, c.update, c.updateErased, c.complete].Nodup

/-- A row gives each operand byte of a command a slot of its own among FCCOB1..FCCOBn (R120, R126). -/
def LayoutRow.ok (arity : Nat) (r : LayoutRow) : Bool :=
  r.params.length == arity && decide r.params.Nodup &&
    r.params.all fun i => i != 0 && decide (i.val ≤ r.n.val)

/-- The premises on P_LAYOUT (log 22): every row fits its command; the longword data stand in FCCOB4..7 (R125,
R98); and the rows of 0x09 and 0x46 are those of R126, which SWP's rules write out (R220, R223, R232,
92 D24, D27). -/
def Layout.ok (l : Layout) : Bool :=
  (opcodes.all fun o => (l.row o).ok o.arity) &&
    l.programLongword.params.drop 3 == [4, 5, 6, 7] &&
    l.eraseSector == Layout.standard.eraseSector && l.pFlashSwap == Layout.standard.pFlashSwap

/-- The configuration premises of R11, with the block sizes of R9 positive, `P_OFFSET` injective (R100),
`P_FPROT_ORDER` a permutation (R9), the swap codes distinct (log 45) and P_LAYOUT a layout (log 22). The
register window ends inside the address space. -/
def Config.wf (c : Config) : Bool :=
  0 < c.pflashSize.toNat &&
  c.pflashBase.toNat + c.pflashSize.toNat ≤ 2 ^ 32 &&
  c.dflashBase.toNat + c.dflashSize.toNat ≤ 2 ^ 32 &&
  c.pflashSize.toNat ≤ 0x800000 &&
  c.dflashSize.toNat ≤ 0x800000 &&
  0 < c.psectorSize.toNat && 0 < c.dsectorSize.toNat &&
  0 < c.pblockSize.toNat && 0 < c.dblockSize.toNat &&
  0 < c.align.verifyBlock.toNat && 0 < c.align.verifySection.toNat &&
  0 < c.align.eraseBlock.toNat && 0 < c.align.programSection.toNat &&
  c.pflashSize.toNat % 2 == 0 &&
  (c.pflashSize.toNat / 2) % c.psectorSize.toNat == 0 &&
  c.fcfLo.toNat ≤ c.fcfHi.toNat &&
  c.regBase.toNat + 0x100 ≤ 2 ^ 32 &&
  decide c.offset.toList.Nodup &&
  decide c.fprotOrder.toList.Nodup &&
  c.swapCode.distinct && c.swapState.distinct && c.layout.ok

end Sys2Proof
end

