-- ==== Sys2Proof/Decode.lean ====
section
/-! DEFINITION. From requests to instructions and back (30_encoding.md R120-R134). The decoder is total:
every request decodes or is rejected by name. The encoder follows it. -/

namespace Sys2Proof

open Machine

/-- Why a request or a byte sequence is no instruction. -/
inductive DecodeError where
  /-- A parameter count above 11 (R151). -/
  | paramCount
  /-- No bytes: a command object has at least one (R120). -/
  | emptyObject
  /-- More than twelve bytes (R120). -/
  | objectTooLong
deriving DecidableEq, Repr

/-- A swap-control command, told apart by its code, FCCOB4 (R127, R134). -/
def decodeSwapControl (cfg : Config) (p : Slots) : Instr :=
  let code := fieldByte cfg.layout.pFlashSwap p 3
  let a := addrIn cfg .pFlashSwap p
  if code = cfg.swapCode.report then .pFlashSwapReportStatus a
  else if code = cfg.swapCode.setInd then .pFlashSwapSetIndicatorAddress a
  else if code = cfg.swapCode.setPrep then .pFlashSwapSetInPrepare a
  else if code = cfg.swapCode.setComp then .pFlashSwapSetInComplete a
  else .pFlashSwap a code

/-- The fields of a command in its layout (R126). -/
def decodeCommand (cfg : Config) (p : Slots) (o : Opcode) : Instr :=
  let a := addrIn cfg o p
  let b := fieldByte (cfg.layout.row o) p
  match o with
  | .verifyBlock => .verifyBlock a (b 3)
  | .verifySection => .verifySection a (countIn cfg o p) (b 5)
  | .programCheck => .programCheck a (b 3) (longIn cfg o p 4)
  | .readResource => .readResource a (b 3)
  | .programLongword => .programLongword a (longIn cfg o p 3)
  | .programPhrase => .programPhrase a (longIn cfg o p 3) (longIn cfg o p 7)
  | .eraseBlock => .eraseBlock a
  | .eraseSector => .eraseSector a
  | .programSection => .programSection a (countIn cfg o p)
  | .verifyAllBlock => .verifyAllBlock (b 0)
  | .readOnce => .readOnce (b 0)
  | .programOnce => .programOnce (b 0) (longIn cfg o p 1)
  | .eraseAllBlock => .eraseAllBlock
  | .securityBypass => .securityBypass #v[b 0, b 1, b 2, b 3, b 4, b 5, b 6, b 7]
  | .pFlashSwap => decodeSwapControl cfg p
  | .eraseAllBlockUnsecure => .eraseAllBlockUnsecure
  | .programPartition => .programPartition (b 0) (b 1)
  | .setEERAM => .setEERAM (b 0)

/-- The instruction a request is (R133). A command in its layout of P_LAYOUT is that row's instruction; any
other object, an unlisted opcode among them (R131), is the row EXECUTE (R150), so no byte of a request
is dropped (log 23). -/
def decode (cfg : Config) : Request → Except DecodeError Instr
  | .swap addr => .ok (.swap addr)
  | .execute n p =>
    if 11 < n.toNat then .error .paramCount
    else if inLayout cfg n p then
      match opcodeOf p[0] with
      | some o => .ok (decodeCommand cfg p o)
      | none => .ok (.execute n p)
    else .ok (.execute n p)

/-- The request a command object's bytes make (R120, R135): `n` is the index of the last byte. -/
def requestOfBytes (l : List Byte) : Except DecodeError Request :=
  match l.length with
  | 0 => .error .emptyObject
  | k + 1 => if 11 < k then .error .objectTooLong else .ok (.execute (BitVec.ofNat 4 k) (objectOf 0 l).p)

/-- The instruction of a command object's bytes: total on any bytes. -/
def decodeBytes (cfg : Config) (l : List Byte) : Except DecodeError Instr :=
  match requestOfBytes l with
  | .error e => .error e
  | .ok r => decode cfg r

/-- The bytes of a table word, the first in bits 7..0. -/
def wordBytes (nbytes w : Nat) : List Byte :=
  (List.range nbytes).map fun j => BitVec.ofNat 8 (w / 2 ^ (8 * j))

/-- The request a table word stands for: the slots above its bytes are 0, and the length, which the
object does not encode (R121), is the `n` of the opcode's layout (R126), or the index of the last byte
for an opcode in no layout (log 24). -/
def tableRequest (nbits w : Nat) : Except DecodeError Request :=
  match requestOfBytes (wordBytes ((nbits + 7) / 8) w) with
  | .ok (.execute n p) =>
    match opcodeOf p[0] with
    | some o => .ok (.execute (BitVec.ofNat 4 (Layout.standard.row o).n.val) p)
    | none => .ok (.execute n p)
  | r => r

/-- The instruction the decoder reads from a word of spec/opcode_table.json, under the configuration of
State.reset (the swap codes and the byte order are parameters). -/
def decodeTableWord (nbits w : Nat) : Option Instr :=
  match tableRequest nbits w with
  | .error _ => none
  | .ok r =>
    match decode Config.standard r with
    | .error _ => none
    | .ok i => some i

/-! ## The encoder -/

/-- The EXECUTE request of a command object (R133). -/
def requestOf (c : CommandObject) : Request :=
  .execute (BitVec.ofNat 4 c.n.val) c.p

/-- The request of an instruction (R126, R133, R136). -/
def encode (cfg : Config) : Instr → Request
  | .verifyBlock a margin => requestOf (objVerifyBlock cfg a margin)
  | .verifySection a count margin => requestOf (objVerifySection cfg a count margin)
  | .programCheck a margin expected => requestOf (objProgramCheck cfg a margin expected)
  | .readResource a sel => requestOf (objReadResource cfg a sel)
  | .programLongword a v => requestOf (objProgramLongword cfg a v)
  | .programPhrase a v0 v1 => requestOf (objProgramPhrase cfg a v0 v1)
  | .eraseBlock a => requestOf (objEraseBlock cfg a)
  | .eraseSector a => requestOf (objEraseSector cfg a)
  | .programSection a count => requestOf (objProgramSection cfg a count)
  | .verifyAllBlock margin => requestOf (objVerifyAllBlock cfg margin)
  | .readOnce index => requestOf (objReadOnce cfg index)
  | .programOnce index v => requestOf (objProgramOnce cfg index v)
  | .eraseAllBlock => requestOf (objEraseAllBlock cfg)
  | .securityBypass key => requestOf (objSecurityBypass cfg key)
  | .pFlashSwap a code => requestOf (objPFlashSwap cfg a code)
  | .pFlashSwapReportStatus a => requestOf (objPFlashSwap cfg a cfg.swapCode.report)
  | .pFlashSwapSetIndicatorAddress a => requestOf (objPFlashSwap cfg a cfg.swapCode.setInd)
  | .pFlashSwapSetInPrepare a => requestOf (objPFlashSwap cfg a cfg.swapCode.setPrep)
  | .pFlashSwapSetInComplete a => requestOf (objPFlashSwap cfg a cfg.swapCode.setComp)
  | .eraseAllBlockUnsecure => requestOf (objEraseAllBlockUnsecure cfg)
  | .programPartition eeeCode departCode => requestOf (objProgramPartition cfg eeeCode departCode)
  | .setEERAM ctl => requestOf (objSetEERAM cfg ctl)
  | .execute n p => .execute n p
  | .swap addr => .swap addr

end Sys2Proof
end

