-- ==== Sys2Proof/Machine/State.lean ====
section
/-! DEFINITION. The state of the block and its environment (10_state.md), and the reasons a step stops. -/

namespace Sys2Proof.Machine

/-- A sparse memory: address and byte pairs, addresses strictly rising, no entry equal to what an
unlisted address reads as (Machine/Memory.lean). -/
abbrev Memory := List Host.Cell

/-- The FTFx register window (R30). -/
structure Window where
  fstat  : Byte
  fcnfg  : Byte
  fsec   : Byte
  fopt   : Byte
  fccob  : Slots
  fprot  : Vector Byte 4
  fdprot : Byte
  feprot : Byte
deriving DecidableEq, Repr

/-- The states of SEQ (R44). -/
inductive SeqState where
  | idle | waitReady | clearErr | load | launch | poll | cbWait | decode
deriving DecidableEq, Repr

/-- SEQ (R44, R45). `halted`: a DebugBreak has been emitted and no DebugResume has followed (R320). -/
structure Seq where
  state  : SeqState
  n      : Slot
  buf    : Slots
  k      : Slot
  fstat  : Byte
  result : Code
  owner  : Owner
  halted : Bool
deriving DecidableEq, Repr

/-- The states of SWP (R46). -/
inductive SwpState where
  | idle | check | query | readMode | dispatch | setInd | waitUninit | setPrep | waitReady
  | erase | setComp | waitComp
deriving DecidableEq, Repr

/-- A requester's request: none, accepted and not yet answered, or answered by `Done(r)` (R221, R260). -/
inductive Call where
  | none
  | inFlight
  | done (r : Code)
deriving DecidableEq, Repr

/-- SWP (R46, R47). `call`: its request in SEQ (R221). `halted`: as for SEQ (R320). -/
structure Swp where
  state  : SwpState
  addr   : Addr
  mode   : Byte
  phase  : BitVec 2
  result : Code
  call   : Call
  halted : Bool
deriving DecidableEq, Repr

/-- The controller's hidden state (R60-R62). `ifr`: the information row that holds the once records and
the partition code, and `eeram`: the EERAM function, both abstract (R201, R205, R206). -/
structure Nvm where
  busy      : Bool
  cmd       : Slots
  flash     : Memory
  ifr       : Memory
  eeram     : Byte
  swapState : SwapState
  protMode  : ProtMode
deriving DecidableEq, Repr

/-- What a HOST procedure returns (R271): a result code; for ProgramCheck the failing address (R268); and
the bytes it read (register values, failing data, a once record). -/
structure ProcResult where
  code     : Code
  failAddr : Option Addr
  data     : List Byte
deriving DecidableEq, Repr

/-- What a command procedure does with the end of its commands (R268, R200, R193, R282). -/
inductive Goal where
  | plain
  | check (dest : Addr)
  | once
  | resource
  | init
deriving DecidableEq, Repr

/-- HOST's place in the procedure it runs; each is followed by at most one register access a step. -/
inductive ReqCtl where
  /-- No procedure. -/
  | idle
  /-- The commands still to be issued; the first is offered or in flight, as unit `k` (R266-R269). -/
  | commands (goal : Goal) (k : Nat) (todo : List Instr)
  /-- Reading bytes back from FCCOB after the last command (R268, R200, R193, R282). -/
  | readBack (goal : Goal) (code : Code) (failAddr : Option Addr) (todo : List Slot) (got : List Byte)
  /-- FlashInit waits for CCIF (R282). -/
  | initPoll
  /-- A getter reads registers (R275, R284). -/
  | getRegs (todo : List Reg) (got : List Byte)
  /-- FlashSecurityBypass is about to read FSEC (R285). -/
  | bypass (key : Vector Byte 8)
  /-- The setter is about to read FSTAT (R277). -/
  | protStatus (regs : List Reg) (new : List Byte)
  /-- The setter reads the old value (R278). -/
  | protOld (regs : List Reg) (new : List Byte) (todo : List Reg) (old : List Byte)
  /-- The setter writes the all-ones probe (R278). -/
  | protProbe (regs : List Reg) (new old : List Byte) (todo : List Reg)
  /-- The setter reads the probe back (R278). -/
  | protReadback (regs : List Reg) (new old : List Byte) (todo : List Reg) (probe : List Byte)
  /-- The setter writes the new value (R279, R280). -/
  | protWrite (todo : List Reg) (new : List Byte)
  /-- testBit is about to read (R92). -/
  | testBit (r : Reg) (m : Byte)
  /-- setBit (`set`) or clearBit is about to read (R92). -/
  | rmwRead (r : Reg) (m : Byte) (set : Bool)
  /-- setBit or clearBit is about to write (R92). -/
  | rmwWrite (r : Reg) (v : Byte)
deriving DecidableEq, Repr

/-- HOST. `call`: its request. `ret`: the last procedure's result. `initDone`: FlashInit has run (R333), and
the configuration is fixed (R8). -/
structure Requester where
  ctl      : ReqCtl
  call     : Call
  ret      : ProcResult
  initDone : Bool
deriving DecidableEq, Repr

/-- An agent that makes register accesses. -/
inductive Agent where
  | seq | swp | host
deriving DecidableEq, Repr

/-- The observable events (R13 `emit`) and the accesses, of registers at their address (R13, R94) and of
flash bytes (R90). -/
inductive Event where
  | regRead (who : Agent) (r : Reg) (addr : Addr) (v : Byte)
  | regWrite (who : Agent) (r : Reg) (addr : Addr) (v : Byte)
  | arrayRead (addr : Addr) (v : Byte)
  | callbackInvoke
  | callbackReturn
  | done (source : Fsm) (owner : Owner) (r : Code)
  | debugBreak (f : Fsm)
  | debugResume (f : Fsm)
  | returned (r : ProcResult)
deriving DecidableEq, Repr

/-- The whole state (INVENTORY.md, State). `port`, `history`, `inputs`, `tick` are the model's own:
who is offering on SEQ's one port (R152); the event history, newest first (R13); the inputs of the
coming steps (R13, R14); how many free values have been drawn. -/
structure State where
  cfg     : Config
  win     : Window
  seq     : Seq
  swp     : Swp
  nvm     : Nvm
  req     : Requester
  port    : Owner
  history : List Event
  inputs  : List Input
  tick    : Nat
deriving DecidableEq, Repr

/-- Why the machine stops with a fault. Each is a misuse by the environment; stopping is safe. -/
inductive Fault where
  /-- A write by HOST while a request is being served (R164, 93 I11), any access of other code to the
  window then (R307, 93 I10), or an access or request by the callback (R163). Safe. -/
  | concurrentAccess
  /-- A write to a protection register while CCIF = 0 (R41, R343). Safe. -/
  | protWriteInFlight
  /-- A write of HOST to FCCOB while CCIF = 0 (R39, R343). Safe. -/
  | fccobWriteInFlight
  /-- A write to FSEC (R37) or FOPT (R38), as 93 I35 says. Safe. -/
  | readOnlyRegister
  /-- A read of, or fetch from, a flash block with a command in flight on it (R106, R344). Safe. -/
  | arrayBusy
  /-- A read of an address where no flash block and no register is: DESIGN CHOICE (log 50). Safe. -/
  | unmappedAddress
deriving DecidableEq, Repr

/-- Why a step is refused: the model has no transition for the case. Each is safe. -/
inductive Refusal where
  /-- Raised by exec's arm of an instruction that has no meaning. Safe. -/
  | notModelled (mnemonic : String)
  /-- An EXECUTE with n > 11 (R151 `RefuseParamCount`). Safe. -/
  | refuseParamCount
  /-- A reset while SEQ or SWP is busy or a command is in flight (R332). Safe. -/
  | refuseResetInFlight
  /-- A low-power entry during an operation (R325, 93 I22). Safe. -/
  | refuseLowPower
  /-- EraseSuspend (R287). Safe. -/
  | refuseEraseSuspend
  /-- EraseResume (R287). Safe. -/
  | refuseEraseResume
  /-- EEEWrite (R287). Safe. -/
  | refuseEEEWrite
  /-- A read of EERAM contents (00_scope.md section 3). Safe. -/
  | refuseEeramContents
  /-- A wrapper called with fewer source units than its size asks for (R267, R268). Safe. -/
  | refuseShortSource
  /-- A FlashInit that would change the configuration an earlier one of the run has fixed (R8, R346, 93 I42). -/
  | refuseConfigChange
deriving DecidableEq, Repr

/-- The outcomes of one step. -/
abbrev Result := Host.Outcome State Fault Refusal

/-- The start of a run with given launch values (R330, R331): SEQ IDLE, SWP S_IDLE, nothing in flight or
halted, `nvm_busy` consistent with FSTAT[7] (R60). The arrays, the information row and the EERAM
function are given, as is the history. -/
def State.launch (cfg : Config) (l : Launch) (flash ifr : Memory) (eeram : Byte)
    (history : List Event) (inputs : List Input) (tick : Nat) : State where
  cfg := cfg
  win := { fstat := l.fstat, fcnfg := l.fcnfg, fsec := l.fsec, fopt := l.fopt, fccob := l.fccob,
           fprot := l.fprot, fdprot := l.fdprot, feprot := l.feprot }
  seq := { state := .idle, n := l.seqN, buf := l.seqBuf, k := l.seqK, fstat := l.seqFstat,
           result := l.seqResult, owner := l.seqOwner, halted := false }
  swp := { state := .idle, addr := l.swpAddr, mode := l.swpMode, phase := l.swpPhase,
           result := l.swpResult, call := .none, halted := false }
  nvm := { busy := !l.fstat.getLsbD 7, cmd := l.nvmCmd, flash := flash, ifr := ifr, eeram := eeram,
           swapState := l.swapState, protMode := l.protMode }
  req := { ctl := .idle, call := .none, ret := { code := 0, failAddr := none, data := [] },
           initDone := false }
  port := .host
  history := history
  inputs := inputs
  tick := tick

/-- The machine right after reset (R330, R331), with the launch values of logs 4, 6-9 and empty arrays
(log 10). -/
def State.reset : State :=
  State.launch Config.standard Launch.standard [] [] 0 [] [] 0

end Sys2Proof.Machine
end

