-- ==== Sys2Proof/Machine/Memory.lean ====
section
/-! DEFINITION. The sparse memory that holds the flash arrays and the information row. -/

namespace Sys2Proof.Machine

/-- What a byte nothing has written reads as: an erased byte. DESIGN CHOICE, unsafe (log 10). -/
def unwritten : Byte := 0xFF

/-- One byte. -/
def Memory.read : Memory → Nat → Byte
  | [], _ => unwritten
  | (b, w) :: t, a => if a = b then w else Memory.read t a

/-- Write one byte, keeping the canonical form: writing `unwritten` removes the entry. -/
def Memory.write : Memory → Nat → Byte → Memory
  | [], a, v => if v = unwritten then [] else [(a, v)]
  | (b, w) :: t, a, v =>
    if a < b then (if v = unwritten then (b, w) :: t else (a, v) :: (b, w) :: t)
    else if a = b then (if v = unwritten then t else (a, v) :: t)
    else (b, w) :: Memory.write t a v

/-- The addresses are strictly rising from `lo` and no entry holds `unwritten`. -/
def Memory.wfFrom (lo : Nat) : Memory → Bool
  | [] => true
  | (b, w) :: t => decide (lo ≤ b) && w != unwritten && Memory.wfFrom (b + 1) t

/-- The canonical form. -/
def Memory.wf (m : Memory) : Bool := Memory.wfFrom 0 m

/-- Write the listed bytes, in order, where `p` allows. -/
def Memory.writeCells (p : Nat → Bool) : List Host.Cell → Memory → Memory
  | [], m => m
  | (a, v) :: t, m => Memory.writeCells p t (if p a then Memory.write m a v else m)

end Sys2Proof.Machine
end

