-- ==== Sys2Proof/Machine/Flags.lean ====
section
/-! DEFINITION. FSTAT: its flags, its write semantics, its values at launch and completion, and the error
decoder (10_state.md R31-R35, 40_sequencer.md R160, R169, R170). -/

namespace Sys2Proof.Machine

/-- CCIF, bit 7 (R31). -/
def ccif (v : Byte) : Bool := v.getLsbD 7

/-- RDCOLERR, bit 6 (R31). -/
def rdcolerr (v : Byte) : Bool := v.getLsbD 6

/-- ACCERR, bit 5 (R31). -/
def accerr (v : Byte) : Bool := v.getLsbD 5

/-- FPVIOL, bit 4 (R31). -/
def fpviol (v : Byte) : Bool := v.getLsbD 4

/-- MGSTAT0, bit 0 (R31). -/
def mgstat0 (v : Byte) : Bool := v.getLsbD 0

/-- The bits of FSTAT the spec names: all but 3:1 (R31). -/
def namedFlags (v : Byte) : Byte := v &&& 0xF1

/-- Bits 3:1 read as a draw (R35): FSTAT with those bits set to `rsv`. -/
def floatReserved (rsv : BitVec 3) (v : Byte) : Byte :=
  namedFlags v ||| (rsv.setWidth 8 <<< 1)

/-- The write-1-to-clear part of a write of `v` to FSTAT `f` (R33). -/
def clearErrors (f v : Byte) : Byte := f &&& ~~~(v &&& 0x70)

/-- Whether a write of `v` to FSTAT launches, `f` being FSTAT after the clears (R33). -/
def launches (f v : Byte) : Bool := ccif v && ccif f && !accerr f && !fpviol f

/-- FSTAT after a launch: CCIF and MGSTAT0 cleared (R169). -/
def launchedStatus (f : Byte) : Byte := f &&& 0x7E

/-- A flag's mask where the flag is set. -/
def flagIf (b : Bool) (mask : Byte) : Byte := if b then mask else 0

/-- FSTAT after a completion (R170): the drawn error flags are set and none is cleared, MGSTAT0 takes the
drawn value, CCIF is set. -/
def completedStatus (f : Byte) (o : NvmOutcome) : Byte :=
  (f &&& 0xFE) ||| flagIf o.rdcolerr 0x40 ||| flagIf o.accerr 0x20 ||| flagIf o.fpviol 0x10 |||
    flagIf o.mgstat0 0x01 ||| 0x80

/-- Success (R301). -/
def codeSuccess : Code := 0x0000
/-- SizeAlignmentError (R301). -/
def codeSizeAlignment : Code := 0x0001
/-- RangeError (R301). -/
def codeRange : Code := 0x0002
/-- AccessError (R301). -/
def codeAccess : Code := 0x0004
/-- ProtectionViolation (R301). -/
def codeProtection : Code := 0x0008
/-- UncorrectableError (R301). -/
def codeUncorrectable : Code := 0x0010
/-- ChangeProtectionError (R301). -/
def codeChangeProtection : Code := 0x0020
/-- EEPROMSizeError (R301). -/
def codeEEPROMSize : Code := 0x0040
/-- EFlashSizeError (R301). -/
def codeEFlashSize : Code := 0x0080
/-- AddressAlignmentError (R301). -/
def codeAddressAlignment : Code := 0x0100
/-- NoEEPROMError (R301). -/
def codeNoEEPROM : Code := 0x0200
/-- EFlashOnlyError (R301). -/
def codeEFlashOnly : Code := 0x0400
/-- DFlashOnlyError (R301). -/
def codeDFlashOnly : Code := 0x0800
/-- ReadCollisionError (R301): produced by nothing (R304). -/
def codeReadCollision : Code := 0x1000
/-- RAMNotReadyError (R301). -/
def codeRAMNotReady : Code := 0x2000

/-- The FSTAT error decoder, in the order ACCERR, FPVIOL, MGSTAT0 (R160, R175). -/
def decodeStatus (v : Byte) : Code :=
  if accerr v then codeAccess
  else if fpviol v then codeProtection
  else if mgstat0 v then codeUncorrectable
  else codeSuccess

/-- The value a write of `v` leaves in a protection register that holds `old` (R41): an AND in normal
mode, a store in special mode. -/
def protValue (m : ProtMode) (old v : Byte) : Byte :=
  match m with
  | .normal => old &&& v
  | .special => v

/-- The 3-bit code of SEQ's state (R44). -/
def seqStateCode : SeqState → BitVec 3
  | .idle => 0
  | .waitReady => 1
  | .clearErr => 2
  | .load => 3
  | .launch => 4
  | .poll => 5
  | .cbWait => 6
  | .decode => 7

end Sys2Proof.Machine
end

