-- ==== Sys2Proof/Machine/Ops.lean ====
section
/-! DEFINITION. The shared operations over the register window, SEQ's request port, and the one operation
that ends an EXECUTE or a SWAP (20_memory.md, 40_sequencer.md R151, R152, R161, 60_exceptions.md R300,
R320). The block has no exceptions (R300): ending with a result code takes their place. -/

namespace Sys2Proof.Machine

/-! ## Events and register accesses -/

/-- `emit E` (R13): the newest event stands first. -/
def State.emit (e : Event) (s : State) : State :=
  { s with history := e :: s.history }

/-- The address of a register: `P_REG_BASE + P_OFFSET(r)` (R13, R100). -/
def regAddr (cfg : Config) (r : Reg) : Addr :=
  cfg.regBase + (cfg.offset.get r.index).setWidth 32

/-- The content of a register (R30). -/
def readReg (s : State) : Reg → Byte
  | .fstat => s.win.fstat
  | .fcnfg => s.win.fcnfg
  | .fsec => s.win.fsec
  | .fopt => s.win.fopt
  | .fccob i => s.win.fccob.get i
  | .fprot i => s.win.fprot.get i
  | .fdprot => s.win.fdprot
  | .feprot => s.win.feprot

/-- CCIF (R31). -/
def State.ccif (s : State) : Bool := Machine.ccif s.win.fstat

/-- One `RegRead(r)` by an agent: no side effect (R96) but its place in the history. The value read is
`readReg s r`. -/
def logRead (who : Agent) (r : Reg) (s : State) : State :=
  s.emit (.regRead who r (regAddr s.cfg r) (readReg s r))

/-- The place of one `RegWrite(r, v)` in the history. -/
def logWrite (who : Agent) (r : Reg) (v : Byte) (s : State) : State :=
  s.emit (.regWrite who r (regAddr s.cfg r) v)

/-- A launch (R169), `f` being FSTAT after the clears of the launching write. -/
def launchCommand (f : Byte) (s : State) : State :=
  { s with
    win := { s.win with fstat := launchedStatus f }
    nvm := { s.nvm with busy := true, cmd := s.win.fccob } }

/-- The effect of `RegWrite(FSTAT, v)` (R33): the clears, then the launch if there is one. -/
def storeFstat (v : Byte) (s : State) : State :=
  let f := clearErrors s.win.fstat v
  if launches f v then launchCommand f s
  else { s with win := { s.win with fstat := f } }

/-- The effect of `RegWrite(FCCOB(i), v)`: stored only while CCIF = 1 (R39, R96). -/
def storeFccob (i : Slot) (v : Byte) (s : State) : State :=
  if s.ccif then { s with win := { s.win with fccob := s.win.fccob.set i v } } else s

/-- The effect of a write to FPROTi while CCIF = 1 (R41). -/
def storeFprot (i : Fin 4) (v : Byte) (s : State) : State :=
  { s with win := { s.win with
      fprot := s.win.fprot.set i (protValue s.nvm.protMode (s.win.fprot.get i) v) } }

/-- The effect of a write to FDPROT while CCIF = 1 (R41). -/
def storeFdprot (v : Byte) (s : State) : State :=
  { s with win := { s.win with fdprot := protValue s.nvm.protMode s.win.fdprot v } }

/-- The effect of a write to FEPROT while CCIF = 1 (R41). -/
def storeFeprot (v : Byte) (s : State) : State :=
  { s with win := { s.win with feprot := protValue s.nvm.protMode s.win.feprot v } }

/-- `RegWrite(FSTAT, v)` by an agent. -/
def writeFstat (who : Agent) (v : Byte) (s : State) : State :=
  storeFstat v (logWrite who .fstat v s)

/-- `RegWrite(FCCOB(i), v)` by an agent. -/
def writeFccob (who : Agent) (i : Slot) (v : Byte) (s : State) : State :=
  storeFccob i v (logWrite who (.fccob i) v s)

/-- A request is being served (R164; log 17). -/
def State.serving (s : State) : Bool :=
  s.seq.state != .idle || s.swp.state != .idle

/-- The effect of a write of HOST to FCNFG: R36 gives it no fault (R93) and no value, so FCNFG takes a FREE
VALUE (log 52). -/
def storeFcnfg (s : State) : State :=
  { s with
    win := { s.win with fcnfg := Config.freeFcnfg s.tick }
    tick := s.tick + 1 }

/-- A `RegWrite` by HOST, with the misuse faults of R37-R41, R164, R307 and R343. DESIGN CHOICE: a write of FSTAT
while a command is in flight but SEQ and SWP are idle has the effect R33 gives it and is no fault, though
93 I11 would let it be one (log 55). -/
def hostWrite (r : Reg) (v : Byte) (s : State) : Result :=
  match r with
  | .fstat =>
    if s.serving then .fault .concurrentAccess else .next (writeFstat .host v s)
  | .fccob i =>
    if s.serving then .fault .concurrentAccess
    else if s.ccif then .next (writeFccob .host i v s)
    else .fault .fccobWriteInFlight
  | .fprot i =>
    if !s.ccif then .fault .protWriteInFlight
    else if s.serving then .fault .concurrentAccess
    else .next (storeFprot i v (logWrite .host r v s))
  | .fdprot =>
    if !s.ccif then .fault .protWriteInFlight
    else if s.serving then .fault .concurrentAccess
    else .next (storeFdprot v (logWrite .host r v s))
  | .feprot =>
    if !s.ccif then .fault .protWriteInFlight
    else if s.serving then .fault .concurrentAccess
    else .next (storeFeprot v (logWrite .host r v s))
  | .fcnfg =>
    if s.serving then .fault .concurrentAccess else .next (storeFcnfg (logWrite .host r v s))
  | .fsec => .fault .readOnlyRegister
  | .fopt => .fault .readOnlyRegister

/-! ## The request port of SEQ (R151, R152) -/

/-- Whether SEQ accepts a request of the requester at its port: SEQ is IDLE and not halted (R320), and the
requester is SWP while SWP is in any state other than S_IDLE, HOST otherwise (R152). -/
def portOpen (s : State) : Bool :=
  s.seq.state == .idle && !s.seq.halted && ((s.port == .swp) == (s.swp.state != .idle))

/-- The requester at the port waits for `Done`. -/
def awaitDone (s : State) : State :=
  match s.port with
  | .host => { s with req := { s.req with call := .inFlight } }
  | .swp => { s with swp := { s.swp with call := .inFlight } }

/-- SEQ accepts EXECUTE(n, p) (R150 IDLE, R151). -/
def acceptExecute (n : Slot) (p : Slots) (s : State) : State :=
  awaitDone
    { s with seq := { s.seq with n := n, buf := p, owner := s.port, state := .waitReady } }

/-- A command object is offered to SEQ: accepted, or it stays with the requester (R152: no step). -/
def offerObject (c : CommandObject) (s : State) : Result :=
  if portOpen s then .next (acceptExecute c.n c.p s) else .next s

/-! ## The end of an operation -/

/-- `Done(r)` reaches its requester. -/
def deliver (o : Owner) (r : Code) (s : State) : State :=
  match o with
  | .host => { s with req := { s.req with call := .done r } }
  | .swp => { s with swp := { s.swp with call := .done r } }

/-- With P_DEBUG_ENABLE an FSM emits DebugBreak after `Done` and halts until DebugResume (R320). -/
def breakIfDebug (f : Fsm) (s : State) : State :=
  if s.cfg.debugEnable then
    match f with
    | .seq => ({ s with seq := { s.seq with halted := true } }).emit (.debugBreak .seq)
    | .swp => ({ s with swp := { s.swp with halted := true } }).emit (.debugBreak .swp)
  else s

/-- The end of every operation (R161, R233, R309): `Done(r)` to its requester, then DebugBreak. -/
def endOperation (f : Fsm) (o : Owner) (r : Code) (s : State) : State :=
  breakIfDebug f (deliver o r (s.emit (.done f o r)))

/-- DebugResume: a halted FSM goes on (R320). DESIGN CHOICE: the event names one FSM and frees it alone
(log 59). -/
def resumeFsm (f : Fsm) (s : State) : State :=
  match f with
  | .seq =>
    if s.seq.halted then ({ s with seq := { s.seq with halted := false } }).emit (.debugResume .seq) else s
  | .swp =>
    if s.swp.halted then ({ s with swp := { s.swp with halted := false } }).emit (.debugResume .swp) else s

end Sys2Proof.Machine
end

