-- ==== Sys2Proof/Machine/Nvm.lean ====
section
/-! DEFINITION. The controller: the completion of the command in flight and its effect (40_sequencer.md
R168-R173, 41_commands.md, 42_swap_fsm.md R240). -/

namespace Sys2Proof.Machine

/-- Where D-Flash begins in the internal address space (R7, R90). -/
def dflashInternal : Nat := 0x800000

/-- The first address of the unit of `size` bytes that holds internal address `a` in its region. -/
def unitStart (psize dsize a : Nat) : Nat :=
  if a < dflashInternal then a - a % psize else a - (a - dflashInternal) % dsize

/-- The size of the unit that holds internal address `a`. -/
def unitSize (psize dsize a : Nat) : Nat :=
  if a < dflashInternal then psize else dsize

/-- `x` lies in the `size` bytes from `a`. -/
def inRange (a size x : Nat) : Bool := decide (a ≤ x) && decide (x < a + size)

/-- The command is one the spec gives no effect bound for: an unlisted opcode (R131), or PFlashSwap with an
unlisted control code (R132, 93 I13). Its completion is the unconstrained draw. -/
def unlisted (cfg : Config) (cmd : Slots) : Bool :=
  match opcodeOf cmd[0] with
  | none => true
  | some o => o == .pFlashSwap && !cfg.swapCode.has (fieldByte (cfg.layout.row o) cmd 3)

/-- The bytes of the arrays a command with an address works on, as its first address and their number (R190-R198;
log 11): the programmed or checked unit, the section (its unit is a parameter, log 27), the sector or block
that holds the address. None for a command without an address of the arrays. -/
def footprint (cfg : Config) (o : Opcode) (cmd : Slots) : Option (Nat × Nat) :=
  let a := (addrIn cfg o cmd).toNat
  let unit (psize dsize : Addr) : Option (Nat × Nat) :=
    some (unitStart psize.toNat dsize.toNat a, unitSize psize.toNat dsize.toNat a)
  let sect : Option (Nat × Nat) := some (a, (countIn cfg o cmd).toNat * cfg.sectionUnit.toNat)
  match o with
  | .verifyBlock => unit cfg.pblockSize cfg.dblockSize
  | .verifySection => sect
  | .programCheck => some (a, 4)
  | .programLongword => some (a, 4)
  | .programPhrase => some (a, 8)
  | .eraseBlock => unit cfg.pblockSize cfg.dblockSize
  | .eraseSector => unit cfg.psectorSize cfg.dsectorSize
  | .programSection => sect
  | .readResource => none
  | .verifyAllBlock => none
  | .readOnce => none
  | .programOnce => none
  | .eraseAllBlock => none
  | .securityBypass => none
  | .pFlashSwap => none
  | .eraseAllBlockUnsecure => none
  | .programPartition => none
  | .setEERAM => none

/-- `x` is a byte of the command's footprint. -/
def inFootprint (cfg : Config) (o : Opcode) (cmd : Slots) (x : Nat) : Bool :=
  match footprint cfg o cmd with
  | some (a, size) => inRange a size x
  | none => false

/-- The bytes of the arrays a command may change (the "Array effect" of R190-R207; log 11): none for the
commands that verify or read; the programmed unit; the erased sector or block; every byte for the
commands whose effect on the arrays the spec leaves open. Their values are the draw's. -/
def mayChange (cfg : Config) (cmd : Slots) (x : Nat) : Bool :=
  decide (x < 2 ^ 24) &&
    match opcodeOf cmd[0] with
    | none => true
    | some o =>
      match o with
      | .verifyBlock => false
      | .verifySection => false
      | .programCheck => false
      | .readResource => false
      | .programLongword => inFootprint cfg o cmd x
      | .programPhrase => inFootprint cfg o cmd x
      | .eraseBlock => inFootprint cfg o cmd x
      | .eraseSector => inFootprint cfg o cmd x
      | .programSection => inFootprint cfg o cmd x
      | .verifyAllBlock => false
      | .readOnce => false
      | .programOnce => false
      | .eraseAllBlock => true
      | .securityBypass => false
      | .pFlashSwap => true
      | .eraseAllBlockUnsecure => true
      | .programPartition => false
      | .setEERAM => false

/-- The command may change the information row: ProgramOnce's record (R201), ProgramPartition's
configuration (R205), or it is unlisted (R131, R132; log 38). -/
def mayChangeIfr (cfg : Config) (cmd : Slots) : Bool :=
  unlisted cfg cmd || opcodeOf cmd[0] == some .programOnce || opcodeOf cmd[0] == some .programPartition

/-- The command may change the EERAM function: SetEERAM (R206), or it is unlisted (R131, R132; log 38). -/
def mayChangeEeram (cfg : Config) (cmd : Slots) : Bool :=
  unlisted cfg cmd || opcodeOf cmd[0] == some .setEERAM

/-- The command may change the security state: SecurityBypass (R203), EraseAllBlockUnsecure (R207), or it is
unlisted (R131, R132). DEDUCED for the others (log 12). -/
def mayChangeFsec (cfg : Config) (cmd : Slots) : Bool :=
  unlisted cfg cmd || opcodeOf cmd[0] == some .securityBypass ||
    opcodeOf cmd[0] == some .eraseAllBlockUnsecure

/-- The command may change the swap state: PFlashSwap and EraseSector (R240), or it is unlisted (R131).
DEDUCED for the others (log 13). -/
def mayChangeSwap (cfg : Config) (cmd : Slots) : Bool :=
  unlisted cfg cmd || opcodeOf cmd[0] == some .pFlashSwap || opcodeOf cmd[0] == some .eraseSector

/-- The swap state after a completion of `cmd` (R61, R170, R240): the drawn one where the command may change it. -/
def swapStateAfter (cfg : Config) (cmd : Slots) (o : NvmOutcome) (st : SwapState) : SwapState :=
  if mayChangeSwap cfg cmd then o.swapState.getD st else st

/-- The return bytes: each slot in the domain of `ret` takes its byte (R170). -/
def returnBytes (ret : Vector (Option Byte) 12) (f : Slots) : List Slot → Slots
  | [] => f
  | i :: t =>
    returnBytes ret (match ret.get i with
      | some b => f.set i b
      | none => f) t

/-- The register window after a completion (R170). -/
def completedWindow (cfg : Config) (o : NvmOutcome) (cmd : Slots) (w : Window) : Window :=
  { w with
    fccob := returnBytes o.ret w.fccob allSlots
    fstat := completedStatus w.fstat o
    fcnfg := o.fcnfg.getD w.fcnfg
    fsec := if mayChangeFsec cfg cmd then o.fsec.getD w.fsec else w.fsec }

/-- The hidden state after a completion (R170). -/
def completedNvm (cfg : Config) (o : NvmOutcome) (m : Nvm) : Nvm :=
  { m with
    busy := false
    flash := Memory.writeCells (mayChange cfg m.cmd) o.flash m.flash
    ifr := if mayChangeIfr cfg m.cmd then Memory.writeCells (fun _ => true) o.ifr m.ifr else m.ifr
    eeram := if mayChangeEeram cfg m.cmd then o.eeram.getD m.eeram else m.eeram
    swapState := swapStateAfter cfg m.cmd o m.swapState }

/-- The controller's step: it completes the command in flight with a drawn outcome (R170), and takes no step
while idle (R168). -/
def nvmStep (o : NvmOutcome) (s : State) : State :=
  if s.nvm.busy then
    { s with
      win := completedWindow s.cfg o s.nvm.cmd s.win
      nvm := completedNvm s.cfg o s.nvm }
  else s

/-- `x` is in a flash block that holds one of the `size` bytes from `a`, or the byte at `a` if `size` is 0. The
blocks are the units of P_PBLOCK_SIZE bytes in P-Flash and of P_DBLOCK_SIZE bytes in D-Flash (R9). -/
def onBlocks (cfg : Config) (a size x : Nat) : Bool :=
  let last := a + (size - 1)
  let within (base block : Nat) : Bool :=
    decide ((a - base) / block ≤ (x - base) / block) && decide ((x - base) / block ≤ (last - base) / block)
  if x < dflashInternal then decide (a < dflashInternal) && within 0 cfg.pblockSize.toNat
  else decide (dflashInternal ≤ last) && within dflashInternal cfg.dblockSize.toNat

/-- Whether a command without an address of the arrays is on the block of internal address `x`. DESIGN CHOICE (log 34):
on every block where its rule names all of them (R199, R202, R207), bounds no effect (PFlashSwap) or leaves open
which block holds its resource (R193) or record (R200, R201); on D-Flash for the D-Flash IFR (R90, R205); on
none for the security state and the EERAM function (R203, R206). The opcodes with a footprint do not come
here. -/
def onUnaddressed (o : Opcode) (x : Nat) : Bool :=
  match o with
  | .verifyAllBlock | .eraseAllBlock | .eraseAllBlockUnsecure | .pFlashSwap => true
  | .readResource | .readOnce | .programOnce => true
  | .programPartition => decide (dflashInternal ≤ x)
  | .securityBypass | .setEERAM => false
  | .verifyBlock | .verifySection | .programCheck | .programLongword | .programPhrase
  | .eraseBlock | .eraseSector | .programSection => true

/-- Whether a command in flight is on the block of internal address `x` (R106, R344). DESIGN CHOICE (log 34): a
command on an address of the arrays is on the blocks that hold a byte of its footprint; an unlisted one is on
every block. -/
def commandOnBlock (cfg : Config) (cmd : Slots) (x : Nat) : Bool :=
  match opcodeOf cmd[0] with
  | none => true
  | some o =>
    match footprint cfg o cmd with
    | some (a, size) => onBlocks cfg a size x
    | none => onUnaddressed o x

end Sys2Proof.Machine
end

