-- ==== Sys2Proof/Machine/Translate.lean ====
section
/-! DEFINITION. The address translator and validator (43_requester_interface.md R261-R265). Arithmetic is on
mathematical integers (R12, R262). -/

namespace Sys2Proof.Machine

/-- The two containment forms, kept distinct per operation (R263). -/
inductive BoundForm where
  /-- VerifyBlock, VerifySection: only the start address is tested. -/
  | verify
  /-- Every other address-bearing operation: the end address is tested. -/
  | progErase
deriving DecidableEq, Repr

/-- The containment test of a region (R263). -/
def inBlock (f : BoundForm) (base bsize dest size : Nat) : Bool :=
  match f with
  | .verify => decide (base ≤ dest) && decide (dest < base + bsize)
  | .progErase => decide (base ≤ dest) && decide (dest + size ≤ base + bsize)

/-- `InP` (R262). -/
def inPFlash (cfg : Config) (f : BoundForm) (dest size : Nat) : Bool :=
  inBlock f cfg.pflashBase.toNat cfg.pflashSize.toNat dest size

/-- `InD` (R262). -/
def inDFlash (cfg : Config) (f : BoundForm) (dest size : Nat) : Bool :=
  inBlock f cfg.dflashBase.toNat cfg.dflashSize.toNat dest size

/-- `T(dest, size)` (R262): P-Flash is tested first; `none` is RangeError. -/
def translate (cfg : Config) (f : BoundForm) (dest size : Nat) : Option Nat :=
  if inPFlash cfg f dest size then some (dest - cfg.pflashBase.toNat)
  else if inDFlash cfg f dest size then some (dest - cfg.dflashBase.toNat + 0x800000)
  else none

/-- The alignment checks, destination first (R261): the error code, or none. -/
def alignError (al dest size : Nat) : Option Code :=
  if dest % al ≠ 0 then some codeAddressAlignment
  else if size % al ≠ 0 then some codeSizeAlignment
  else none

/-- A wrapper's checks before any command (R261, R262, R308): the error code, or the internal address. -/
def checkRequest (cfg : Config) (f : BoundForm) (al dest size : Nat) : Except Code Nat :=
  match alignError al dest size with
  | some c => .error c
  | none =>
    match translate cfg f dest size with
    | none => .error codeRange
    | some a => .ok a

/-- The sector size the EraseSector wrapper uses (R266). -/
def wrapperSector (cfg : Config) (dest size : Nat) : Nat :=
  if inPFlash cfg .progErase dest size then cfg.psectorSize.toNat else cfg.dsectorSize.toNat

/-- The internal address of unit `k` of `unit` bytes from `a`, as the 24 bits a command carries (R124). -/
def unitAddr (a unit k : Nat) : IAddr := BitVec.ofNat 24 (a + k * unit)

end Sys2Proof.Machine
end

