-- ==== Sys2Proof/Machine/ArrayRead.lean ====
section
/-! DEFINITION. Reads by system address, `MemRead(addr, 1)` (00_scope.md R13, 20_memory.md R90, R106): of the
flash arrays, and of the window by other code of the surrounding system. -/

namespace Sys2Proof.Machine

/-- Every register of the window (R30). -/
def allRegs : List Reg :=
  [.fstat, .fcnfg, .fsec, .fopt] ++ allSlots.map .fccob ++
    [.fprot 0, .fprot 1, .fprot 2, .fprot 3, .fdprot, .feprot]

/-- The register at a system address (R100). -/
def regAt (cfg : Config) (addr : Addr) : Option Reg :=
  allRegs.find? fun r => regAddr cfg r == addr

/-- A read of, or an instruction fetch from, the byte at internal flash address `x`: a fault while a command
is in flight on its block (R106, R344), else the byte. -/
def arrayByte (addr : Addr) (x : Nat) (s : State) : Result :=
  if s.nvm.busy && commandOnBlock s.cfg s.nvm.cmd x then .fault .arrayBusy
  else .next (s.emit (.arrayRead addr (Memory.read s.nvm.flash x)))

/-- A read of, or a fetch from, an address where no register is (R90): a flash byte, P-Flash first as in R262;
an EERAM byte is refused (log 35). DESIGN CHOICE: the flash byte is read also where a flash range overlaps the
EERAM range or a reserved offset of the window, which no premise of R11 excludes (log 63). DESIGN CHOICE: at a
reserved offset (R101) or another address that no flash or EERAM range holds, the read is the fault
unmappedAddress (log 50). -/
def arrayRead (addr : Addr) (s : State) : Result :=
  match translate s.cfg .progErase addr.toNat 1 with
  | some x => arrayByte addr x s
  | none =>
    if inBlock .progErase s.cfg.eeramBase.toNat s.cfg.eeramSize.toNat addr.toNat 1 then
      .refused .refuseEeramContents
    else .fault .unmappedAddress

/-- A read of a register by code of the surrounding system that runs no HOST procedure, an interrupt handler
among it: while a request is served it is ConcurrentAccess (R307, 93 I10; log 18). -/
def hostRead (r : Reg) (s : State) : Result :=
  if s.serving then .fault .concurrentAccess else .next (logRead .host r s)

/-- `MemRead(addr, 1)` by HOST (R13, R90). At a register's address it is the read of that register, as R13
says. DESIGN CHOICE: so it is where the window overlaps a flash or EERAM range, which no premise excludes
(log 49). -/
def hostMemRead (addr : Addr) (s : State) : Result :=
  match regAt s.cfg addr with
  | some r => hostRead r s
  | none => arrayRead addr s

/-- `MemRead(addr, 1)` by the callback: it may read an array byte (R344), and must not touch the window (R163,
93 I10). -/
def callbackMemRead (addr : Addr) (s : State) : Result :=
  match regAt s.cfg addr with
  | some _ => .fault .concurrentAccess
  | none => arrayRead addr s

end Sys2Proof.Machine
end

