-- ==== Sys2Proof/Machine/EraseCommands.lean ====
section
/-! DEFINITION. The erase commands (41_commands.md R196, R197, R202, R207). -/

namespace Sys2Proof.Machine

/-- EraseBlock, `EXECUTE(3, [0x08, A(a)])` (R196). -/
def execEraseBlock (a : IAddr) (s : State) : Result :=
  offerObject (objEraseBlock s.cfg a) s

/-- EraseSector, `EXECUTE(3, [0x09, A(a)])` (R197). -/
def execEraseSector (a : IAddr) (s : State) : Result :=
  offerObject (objEraseSector s.cfg a) s

/-- EraseAllBlock, `EXECUTE(0, [0x44])` (R202). -/
def execEraseAllBlock (s : State) : Result :=
  offerObject (objEraseAllBlock s.cfg) s

/-- EraseAllBlockUnsecure, `EXECUTE(0, [0x49])` (R207). -/
def execEraseAllBlockUnsecure (s : State) : Result :=
  offerObject (objEraseAllBlockUnsecure s.cfg) s

end Sys2Proof.Machine
end

