-- ==== Sys2Proof/Machine/ProgramCommands.lean ====
section
/-! DEFINITION. The program commands (41_commands.md R194, R195, R198, R201). -/

namespace Sys2Proof.Machine

/-- ProgramLongword, `EXECUTE(7, [0x06, A(a), pack_4(v)])` (R194). -/
def execProgramLongword (a : IAddr) (v : BitVec 32) (s : State) : Result :=
  offerObject (objProgramLongword s.cfg a v) s

/-- ProgramPhrase, `EXECUTE(11, [0x07, A(a), pack_4(v0), pack_4(v1)])` (R195). -/
def execProgramPhrase (a : IAddr) (v0 v1 : BitVec 32) (s : State) : Result :=
  offerObject (objProgramPhrase s.cfg a v0 v1) s

/-- ProgramSection, `EXECUTE(5, [0x0B, A(a), count[15:8], count[7:0]])` (R198). -/
def execProgramSection (a : IAddr) (count : BitVec 16) (s : State) : Result :=
  offerObject (objProgramSection s.cfg a count) s

/-- ProgramOnce, `EXECUTE(7, [0x43, index, 0, 0, pack_4(v)])` (R201). -/
def execProgramOnce (index : Byte) (v : BitVec 32) (s : State) : Result :=
  offerObject (objProgramOnce s.cfg index v) s

end Sys2Proof.Machine
end

