-- ==== Sys2Proof/Machine/Requests.lean ====
section
/-! DEFINITION. The requests EXECUTE and SWAP (40_sequencer.md R150, R151, 42_swap_fsm.md R220, R221). -/

namespace Sys2Proof.Machine

/-- EXECUTE(n, p) (R150): refused for n > 11 (R151), else offered to SEQ. -/
def execExecute (n : BitVec 4) (p : Slots) (s : State) : Result :=
  if h : n.toNat < 12 then offerObject ⟨⟨n.toNat, h⟩, p⟩ s
  else .refused .refuseParamCount

/-- Whether SWP accepts a SWAP (R221): from HOST, in S_IDLE, not halted, and while SEQ is IDLE. -/
def swapOpen (s : State) : Bool :=
  s.port == .host && s.swp.state == .idle && !s.swp.halted && s.seq.state == .idle

/-- SWAP(addr) (R220, R221): SWP latches the address and will validate it; or the request stays with
HOST (no step). -/
def execSwap (addr : Addr) (s : State) : Result :=
  if swapOpen s then
    .next (awaitDone { s with swp := { s.swp with addr := addr, state := .check } })
  else .next s

end Sys2Proof.Machine
end

