-- ==== Sys2Proof/Machine/ResourceCommands.lean ====
section
/-! DEFINITION. The resource, security and partition commands (41_commands.md R193, R200, R203, R205,
R206). -/

namespace Sys2Proof.Machine

/-- ReadResource, `EXECUTE(8, [0x03, A(a), 0, 0, 0, 0, sel])` (R193). -/
def execReadResource (a : IAddr) (sel : Byte) (s : State) : Result :=
  offerObject (objReadResource s.cfg a sel) s

/-- ReadOnce, `EXECUTE(1, [0x41, index])` (R200). -/
def execReadOnce (index : Byte) (s : State) : Result :=
  offerObject (objReadOnce s.cfg index) s

/-- SecurityBypass, `EXECUTE(11, [0x45, 0, 0, 0, key[0..7]])` (R203). -/
def execSecurityBypass (key : Vector Byte 8) (s : State) : Result :=
  offerObject (objSecurityBypass s.cfg key) s

/-- ProgramPartition, `EXECUTE(5, [0x80, 0, 0, 0, eeeCode, departCode])` (R205). -/
def execProgramPartition (eeeCode departCode : Byte) (s : State) : Result :=
  offerObject (objProgramPartition s.cfg eeeCode departCode) s

/-- SetEERAM, `EXECUTE(1, [0x81, ctl])` (R206). -/
def execSetEERAM (ctl : Byte) (s : State) : Result :=
  offerObject (objSetEERAM s.cfg ctl) s

end Sys2Proof.Machine
end

