-- ==== Sys2Proof/Machine/SwapCommands.lean ====
section
/-! DEFINITION. The swap-control commands (42_swap_fsm.md R223-R228, 41_commands.md R204): the control code
of a sub-form is the configuration's (R127). The read of FCCOB5 that follows one is SWP's own step
(R226, Machine/Swp.lean). -/

namespace Sys2Proof.Machine

/-- PFlashSwap with any other control code, `EXECUTE(4, [0x46, A(a), code])` (R204, R132). -/
def execPFlashSwap (a : IAddr) (code : Byte) (s : State) : Result :=
  offerObject (objPFlashSwap s.cfg a code) s

/-- PFlashSwap.ReportStatus, `EXECUTE(4, [0x46, A(a), REPORT])` (R224). -/
def execPFlashSwapReportStatus (a : IAddr) (s : State) : Result :=
  offerObject (objPFlashSwap s.cfg a s.cfg.swapCode.report) s

/-- PFlashSwap.SetIndicatorAddress, `EXECUTE(4, [0x46, A(a), SETIND])` (R225). -/
def execPFlashSwapSetIndicatorAddress (a : IAddr) (s : State) : Result :=
  offerObject (objPFlashSwap s.cfg a s.cfg.swapCode.setInd) s

/-- PFlashSwap.SetInPrepare, `EXECUTE(4, [0x46, A(a), SETPREP])` (R227). -/
def execPFlashSwapSetInPrepare (a : IAddr) (s : State) : Result :=
  offerObject (objPFlashSwap s.cfg a s.cfg.swapCode.setPrep) s

/-- PFlashSwap.SetInComplete, `EXECUTE(4, [0x46, A(a), SETCOMP])` (R228). -/
def execPFlashSwapSetInComplete (a : IAddr) (s : State) : Result :=
  offerObject (objPFlashSwap s.cfg a s.cfg.swapCode.setComp) s

end Sys2Proof.Machine
end

