-- ==== Sys2Proof/Machine/VerifyCommands.lean ====
section
/-! DEFINITION. The verify commands (41_commands.md R190-R192, R199): each is offered to SEQ as its command
object (R208). -/

namespace Sys2Proof.Machine

/-- VerifyBlock, `EXECUTE(4, [0x00, A(a), margin])` (R190). -/
def execVerifyBlock (a : IAddr) (margin : Byte) (s : State) : Result :=
  offerObject (objVerifyBlock s.cfg a margin) s

/-- VerifySection, `EXECUTE(6, [0x01, A(a), count[15:8], count[7:0], margin])` (R191). -/
def execVerifySection (a : IAddr) (count : BitVec 16) (margin : Byte) (s : State) : Result :=
  offerObject (objVerifySection s.cfg a count margin) s

/-- ProgramCheck, `EXECUTE(11, [0x02, A(a), margin, 0, 0, 0, pack_4(expected)])` (R192). -/
def execProgramCheck (a : IAddr) (margin : Byte) (expected : BitVec 32) (s : State) : Result :=
  offerObject (objProgramCheck s.cfg a margin expected) s

/-- VerifyAllBlock, `EXECUTE(1, [0x40, margin])` (R199). -/
def execVerifyAllBlock (margin : Byte) (s : State) : Result :=
  offerObject (objVerifyAllBlock s.cfg margin) s

end Sys2Proof.Machine
end

