-- ==== Sys2Proof/Machine/Dispatch.lean ====
section
/-! DEFINITION. One arm for each instruction. -/

namespace Sys2Proof.Machine

/-- The meaning of an instruction offered at SEQ's request port. -/
def exec (i : Instr) (s : State) : Host.Outcome State Fault Refusal :=
  match i with
  | .verifyBlock a margin => Sys2Proof.Machine.execVerifyBlock a margin s
  | .verifySection a count margin => Sys2Proof.Machine.execVerifySection a count margin s
  | .programCheck a margin expected => Sys2Proof.Machine.execProgramCheck a margin expected s
  | .readResource a sel => Sys2Proof.Machine.execReadResource a sel s
  | .programLongword a v => Sys2Proof.Machine.execProgramLongword a v s
  | .programPhrase a lo hi => Sys2Proof.Machine.execProgramPhrase a lo hi s
  | .eraseBlock a => Sys2Proof.Machine.execEraseBlock a s
  | .eraseSector a => Sys2Proof.Machine.execEraseSector a s
  | .programSection a count => Sys2Proof.Machine.execProgramSection a count s
  | .verifyAllBlock margin => Sys2Proof.Machine.execVerifyAllBlock margin s
  | .readOnce index => Sys2Proof.Machine.execReadOnce index s
  | .programOnce index v => Sys2Proof.Machine.execProgramOnce index v s
  | .eraseAllBlock => Sys2Proof.Machine.execEraseAllBlock s
  | .securityBypass key => Sys2Proof.Machine.execSecurityBypass key s
  | .pFlashSwap a code => Sys2Proof.Machine.execPFlashSwap a code s
  | .pFlashSwapReportStatus a => Sys2Proof.Machine.execPFlashSwapReportStatus a s
  | .pFlashSwapSetIndicatorAddress a => Sys2Proof.Machine.execPFlashSwapSetIndicatorAddress a s
  | .pFlashSwapSetInPrepare a => Sys2Proof.Machine.execPFlashSwapSetInPrepare a s
  | .pFlashSwapSetInComplete a => Sys2Proof.Machine.execPFlashSwapSetInComplete a s
  | .eraseAllBlockUnsecure => Sys2Proof.Machine.execEraseAllBlockUnsecure s
  | .programPartition eeeCode departCode => Sys2Proof.Machine.execProgramPartition eeeCode departCode s
  | .setEERAM ctl => Sys2Proof.Machine.execSetEERAM ctl s
  | .execute n p => Sys2Proof.Machine.execExecute n p s
  | .swap addr => Sys2Proof.Machine.execSwap addr s

end Sys2Proof.Machine
end

