-- ==== Sys2Proof/Machine/HostAgent.lean ====
section
/-! DEFINITION. HOST: its procedures, at most one offer or one register access a step
(43_requester_interface.md R260-R287). -/

namespace Sys2Proof.Machine

/-- The offer of an instruction by HOST: SEQ's port carries it, and the instruction means what exec says. -/
def hostOffer (i : Instr) (s : State) : Result :=
  exec i { s with port := .host }

/-- HOST's control state becomes `c`; its request has been answered or there is none. -/
def hostGoto (c : ReqCtl) (s : State) : State :=
  { s with req := { s.req with ctl := c, call := .none } }

/-- A procedure returns (R271). -/
def hostReturn (r : ProcResult) (s : State) : State :=
  ({ s with req := { s.req with ctl := .idle, call := .none, ret := r } }).emit (.returned r)

/-- A procedure returns a result code alone. -/
def hostReturnCode (c : Code) (s : State) : State :=
  hostReturn { code := c, failAddr := none, data := [] } s

/-- Start issuing commands; with none to issue the procedure returns Success (R266: `size = 0`). -/
def hostCommands (goal : Goal) (todo : List Instr) (s : State) : State :=
  match todo with
  | [] => hostReturnCode codeSuccess s
  | i :: t => hostGoto (.commands goal 0 (i :: t)) s

/-- The registers of a protection value (R275), in the order a getter or setter accesses them. DESIGN CHOICE:
from the most significant byte of the value down, since R276 says only that there is one access to each
(log 51). -/
def protRegs (cfg : Config) : ProtRegion → List Reg
  | .pflash => cfg.fprotOrder.toList.map .fprot
  | .dflash => [.fdprot]
  | .eeram => [.feprot]

/-- The bytes of a protection value, most significant first. -/
def protBytes (v : BitVec 32) : ProtRegion → List Byte
  | .pflash => [v.extractLsb' 24 8, v.extractLsb' 16 8, v.extractLsb' 8 8, v.extractLsb' 0 8]
  | .dflash => [v.extractLsb' 0 8]
  | .eeram => [v.extractLsb' 0 8]

/-- Every byte of the value is all ones (R276 `ONES`). -/
def allOnes (l : List Byte) : Bool := l.all fun b => b == 0xFF

/-- `((new ^ old) & new) = 0`: every 1 bit of the new value is a 1 bit of the old one (R279). -/
def isSubset (new old : List Byte) : Bool :=
  (new.zip old).all fun q => ((q.1 ^^^ q.2) &&& q.1) == 0

/-- The capability codes a wrapper may return before its request (R198, R205, R206, 93 I27). -/
def capCodes : Proc → List Code
  | .deFlashPartition _ _ =>
    [codeEEPROMSize, codeEFlashSize, codeNoEEPROM, codeEFlashOnly, codeDFlashOnly]
  | .setEEEEnable _ => [codeNoEEPROM, codeRAMNotReady]
  | .programSection _ _ => [codeRAMNotReady]
  | _ => []

/-- The drawn capability error (log 26). A partition command on a derivative with no D-Flash always is one
(R205, R303 (d)). -/
def capError (cfg : Config) (p : Proc) (cap : CapDraw) : Option Code :=
  let must : Bool :=
    match p with
    | .deFlashPartition _ _ => cfg.dflashPhysSize == 0
    | _ => false
  if cap.fails || must then
    (capCodes p)[cap.pick % (capCodes p).length]?
  else none

/-- Start a wrapper that has passed or failed its checks. -/
def hostChecked (c : Except Code Nat) (goal : Goal) (todo : Nat → List Instr) (s : State) : State :=
  match c with
  | .error e => hostReturnCode e s
  | .ok a => hostCommands goal (todo a) s

/-- Start a wrapper of units taken from a source list (R267, R268). -/
def hostUnits (c : Except Code Nat) (goal : Goal) (enough : Bool) (todo : Nat → List Instr)
    (s : State) : Result :=
  match c with
  | .error e => .next (hostReturnCode e s)
  | .ok a => if enough then .next (hostCommands goal (todo a) s) else .refused .refuseShortSource

/-- The capability check comes after the alignment and range checks: "Alignment first" (R261), and R264 and R265
are for all requests (log 53). -/
def capChecked (cap : Option Code) (c : Except Code Nat) : Except Code Nat :=
  match c, cap with
  | .error e, _ => .error e
  | .ok _, some e => .error e
  | .ok a, none => .ok a

/-- Start a single-command wrapper after its capability check (R269). -/
def hostCapable (cap : Option Code) (k : State → State) (s : State) : State :=
  match cap with
  | some c => hostReturnCode c s
  | none => k s

/-- A bare request (R135): it is decoded and offered in one step, and stays with HOST if not accepted. -/
def hostRequest (r : Request) (s : State) : Result :=
  match decode s.cfg r with
  | .error _ => .refused .refuseParamCount
  | .ok i => hostOffer i (hostGoto (.commands .plain 0 [i]) s)

/-- HOST starts a procedure: the checks that come before any register access (R264), and the first place
in its control state. FlashInit may be started again after it has run, and cannot then change the sizes
(log 48). DESIGN CHOICE: VerifyBlock takes no size (log 58); VerifySection and ProgramSection take a count of
units, and their size for the checks of R261 is the count times the section unit (logs 27, 61). -/
def hostStart (p : Proc) (cap : CapDraw) (s : State) : Result :=
  let cfg := s.cfg
  match p with
  | .request r => hostRequest r s
  | .eraseSector dest size =>
    let u := wrapperSector cfg dest.toNat size.toNat
    .next (hostChecked (checkRequest cfg .progErase u dest.toNat size.toNat) .plain
      (fun a => (List.range (size.toNat / u)).map fun k => .eraseSector (unitAddr a u k)) s)
  | .programLongword dest size src =>
    hostUnits (checkRequest cfg .progErase 4 dest.toNat size.toNat) .plain
      (decide (size.toNat / 4 ≤ src.length))
      (fun a => (List.range (size.toNat / 4)).map fun k =>
        .programLongword (unitAddr a 4 k) (src.getD k 0)) s
  | .programPhrase dest size src =>
    hostUnits (checkRequest cfg .progErase 8 dest.toNat size.toNat) .plain
      (decide (2 * (size.toNat / 8) ≤ src.length))
      (fun a => (List.range (size.toNat / 8)).map fun k =>
        .programPhrase (unitAddr a 8 k) (src.getD (2 * k) 0) (src.getD (2 * k + 1) 0)) s
  | .programCheck dest size expected margin =>
    hostUnits (checkRequest cfg .progErase 4 dest.toNat size.toNat) (.check dest)
      (decide (size.toNat / 4 ≤ expected.length))
      (fun a => (List.range (size.toNat / 4)).map fun k =>
        .programCheck (unitAddr a 4 k) margin (expected.getD k 0)) s
  | .eraseBlock dest size =>
    .next (hostChecked
      (checkRequest cfg .progErase cfg.align.eraseBlock.toNat dest.toNat size.toNat) .plain
      (fun a => [.eraseBlock (unitAddr a 0 0)]) s)
  | .verifyBlock dest margin =>
    .next (hostChecked (checkRequest cfg .verify cfg.align.verifyBlock.toNat dest.toNat 0) .plain
      (fun a => [.verifyBlock (unitAddr a 0 0) margin]) s)
  | .verifySection dest count margin =>
    .next (hostChecked
      (checkRequest cfg .verify cfg.align.verifySection.toNat dest.toNat
        (count.toNat * cfg.sectionUnit.toNat)) .plain
      (fun a => [.verifySection (unitAddr a 0 0) count margin]) s)
  | .programSection dest count =>
    .next (hostChecked
      (capChecked (capError cfg p cap)
        (checkRequest cfg .progErase cfg.align.programSection.toNat dest.toNat
          (count.toNat * cfg.sectionUnit.toNat))) .plain
      (fun a => [.programSection (unitAddr a 0 0) count]) s)
  | .verifyAllBlock margin => .next (hostCommands .plain [.verifyAllBlock margin] s)
  | .eraseAllBlock => .next (hostCommands .plain [.eraseAllBlock] s)
  | .readOnce index => .next (hostCommands .once [.readOnce index] s)
  | .programOnce index v => .next (hostCommands .plain [.programOnce index v] s)
  | .deFlashPartition eeeCode departCode =>
    .next (hostCapable (capError cfg p cap)
      (hostCommands .plain [.programPartition eeeCode departCode]) s)
  | .setEEEEnable ctl =>
    .next (hostCapable (capError cfg p cap) (hostCommands .plain [.setEERAM ctl]) s)
  | .readResource a sel => .next (hostCommands .resource [.readResource a sel] s)
  | .pflashSwap addr => .next (hostCommands .plain [.swap addr] s)
  | .setProtection region v =>
    .next (hostGoto (.protStatus (protRegs cfg region) (protBytes v region)) s)
  | .getProtection region => .next (hostGoto (.getRegs (protRegs cfg region) []) s)
  | .flashInit => .next (hostGoto .initPoll s)
  | .getSecurityState => .next (hostGoto (.getRegs [.fsec] []) s)
  | .securityBypass key => .next (hostGoto (.bypass key) s)
  | .testBit r m => .next (hostGoto (.testBit r m) s)
  | .setBit r m => .next (hostGoto (.rmwRead r m true) s)
  | .clearBit r m => .next (hostGoto (.rmwRead r m false) s)
  | .eraseSuspend => .refused .refuseEraseSuspend
  | .eraseResume => .refused .refuseEraseResume
  | .eeeWrite => .refused .refuseEEEWrite

/-- FlashInit stores the two sizes and returns (R282). Once it has, the configuration is fixed for the run (R8,
R346, 92 D19). DESIGN CHOICE: a later one that finds other sizes is refused, since a change then is outside
every claim (93 I42), and one that finds the same sizes ends as the first did (log 48). -/
def initStore (code : Code) (dflash eee : Addr) (s : State) : Result :=
  if s.req.initDone && (dflash != s.cfg.dflashSize || eee != s.cfg.eeeSize) then
    .refused .refuseConfigChange
  else
    .next (hostReturnCode code
      { s with
        cfg := { s.cfg with dflashSize := dflash, eeeSize := eee }
        req := { s.req with initDone := true } })

/-- The end of a read-back (R268, R200, R193, R282): FlashInit stores the two looked-up sizes, indexed by the
low nibbles; the others return the bytes. -/
def hostReadBackEnd (goal : Goal) (code : Code) (failAddr : Option Addr) (got : List Byte)
    (s : State) : Result :=
  match goal with
  | .init =>
    initStore code (s.cfg.departTable.get ⟨(got.getD 0 0).toNat % 16, by omega⟩)
      (s.cfg.eeeSizeTable.get ⟨(got.getD 1 0).toNat % 16, by omega⟩) s
  | _ => .next (hostReturn { code := code, failAddr := failAddr, data := got } s)

/-- After the last command of a procedure. -/
def hostCommandsEnd (goal : Goal) (s : State) : State :=
  match goal with
  | .plain => hostReturnCode codeSuccess s
  | .check _ => hostReturnCode codeSuccess s
  | .once => hostGoto (.readBack .once codeSuccess none s.cfg.onceSlots []) s
  | .resource => hostGoto (.readBack .resource codeSuccess none s.cfg.resourceSlots []) s
  | .init => hostGoto (.readBack .init codeSuccess none [s.cfg.departSlot, s.cfg.eeeSizeSlot] []) s

/-- The first failing command ends a procedure with its result (R271); ProgramCheck first reads the failing
data back and reports the failing unit's system address (R268). DESIGN CHOICE: the slots are read in the
order P_FAILDATA_SLOTS lists them (log 57). -/
def hostFailed (goal : Goal) (k : Nat) (r : Code) (s : State) : State :=
  match goal with
  | .check dest =>
    hostGoto (.readBack goal r (some (dest + BitVec.ofNat 32 (4 * k))) s.cfg.failDataSlots []) s
  | _ => hostReturnCode r s

/-- HOST's step among the commands of a procedure: offer the next one, wait, or take its result. -/
def hostCommandStep (goal : Goal) (k : Nat) (todo : List Instr) (s : State) : Result :=
  match todo with
  | [] => .next (hostCommandsEnd goal s)
  | i :: t =>
    match s.req.call with
    | .none => hostOffer i s
    | .inFlight => .next s
    | .done r =>
      if r = codeSuccess then
        match t with
        | [] => .next (hostCommandsEnd goal s)
        | j :: t' => .next (hostGoto (.commands goal (k + 1) (j :: t')) s)
      else .next (hostFailed goal k r s)

/-- After a HOST write that is not a misuse, go on with `k`. -/
def hostAfterWrite (r : Result) (k : State → State) : Result :=
  match r with
  | .next s => .next (k s)
  | .fault f => .fault f
  | .refused f => .refused f

/-- The setter's decision after the probe (R278-R280). -/
def protDecide (regs : List Reg) (new old probe : List Byte) (s : State) : State :=
  if allOnes probe || isSubset new old then hostGoto (.protWrite regs new) s
  else hostReturnCode codeChangeProtection s

/-- HOST goes on with the procedure it runs, by at most one offer or register access. -/
def hostGo (s : State) : Result :=
  match s.req.ctl with
  | .idle => .next s
  | .commands goal k todo => hostCommandStep goal k todo s
  | .readBack goal code failAddr todo got =>
    match todo with
    | [] => hostReadBackEnd goal code failAddr got s
    | i :: t =>
      .next (hostGoto (.readBack goal code failAddr t (got ++ [readReg s (.fccob i)]))
        (logRead .host (.fccob i) s))
  | .initPoll =>
    let s' := logRead .host .fstat s
    if !s.ccif then .next s'
    else if s.cfg.dflashPhysSize = 0 then initStore codeSuccess 0 0 s'
    else .next (hostCommands .init [.readResource s.cfg.ifrAddr s.cfg.ifrSel] s')
  | .getRegs todo got =>
    match todo with
    | [] => .next (hostReturn { code := codeSuccess, failAddr := none, data := got } s)
    | r :: t => .next (hostGoto (.getRegs t (got ++ [readReg s r])) (logRead .host r s))
  | .bypass key =>
    let s' := logRead .host .fsec s
    if s.win.fsec &&& s.cfg.unsecureMask = s.cfg.unsecureValue then
      .next (hostReturnCode codeSuccess s')
    else .next (hostCommands .plain [.securityBypass key] s')
  | .protStatus regs new =>
    let s' := logRead .host .fstat s
    if s.ccif then .next (hostGoto (.protOld regs new regs []) s')
    else .next (hostReturnCode codeChangeProtection s')
  | .protOld regs new todo old =>
    match todo with
    | [] => .next (hostGoto (.protProbe regs new old regs) s)
    | r :: t =>
      .next (hostGoto (.protOld regs new t (old ++ [readReg s r])) (logRead .host r s))
  | .protProbe regs new old todo =>
    match todo with
    | [] => .next (hostGoto (.protReadback regs new old regs []) s)
    | r :: t => hostAfterWrite (hostWrite r 0xFF s) (hostGoto (.protProbe regs new old t))
  | .protReadback regs new old todo probe =>
    match todo with
    | [] => .next (protDecide regs new old probe s)
    | r :: t =>
      .next (hostGoto (.protReadback regs new old t (probe ++ [readReg s r])) (logRead .host r s))
  | .protWrite todo new =>
    match todo, new with
    | r :: t, v :: vs => hostAfterWrite (hostWrite r v s) (hostGoto (.protWrite t vs))
    | _, _ => .next (hostReturnCode codeSuccess s)
  | .testBit r m =>
    .next (hostReturn
      { code := codeSuccess, failAddr := none,
        data := [if readReg s r &&& m ≠ 0 then 1 else 0] } (logRead .host r s))
  | .rmwRead r m set =>
    .next (hostGoto (.rmwWrite r (if set then readReg s r ||| m else readReg s r &&& ~~~m))
      (logRead .host r s))
  | .rmwWrite r v => hostAfterWrite (hostWrite r v s) (hostReturnCode codeSuccess)

/-- HOST's step. A procedure starts only where none runs: HOST is single-threaded (R260; log 46). -/
def hostStep (m : ReqMove) (s : State) : Result :=
  match m with
  | .call p cap => if s.req.ctl = .idle then hostStart p cap s else .next s
  | .go => hostGo s
  | .read r => hostRead r s
  | .write r v => hostWrite r v s
  | .arrayRead addr => hostMemRead addr s

end Sys2Proof.Machine
end

