-- ==== Sys2Proof/Machine/Seq.lean ====
section
/-! DEFINITION. The steps of SEQ after it has accepted a request, one register access each (40_sequencer.md
R150-R162), and the callback. -/

namespace Sys2Proof.Machine

/-- WAIT_READY (R153): one read of FSTAT; on to CLEAR_ERR when CCIF = 1. No callback (R154). -/
def seqWaitReady (s : State) : State :=
  let s' := logRead .seq .fstat s
  if s.ccif then { s' with seq := { s'.seq with state := .clearErr } } else s'

/-- CLEAR_ERR (R155): `RegWrite(FSTAT, 0x70)`. -/
def seqClearErr (s : State) : State :=
  let s' := writeFstat .seq 0x70 s
  { s' with seq := { s'.seq with k := 0, state := .load } }

/-- LOAD (R156): `RegWrite(FCCOB(seq_k), seq_buf[seq_k])`; after slot `seq_n` on to LAUNCH (log 37). -/
def seqLoad (s : State) : State :=
  let s' := writeFccob .seq s.seq.k (s.seq.buf.get s.seq.k) s
  if h : s.seq.k.val < s.seq.n.val then
    { s' with seq := { s'.seq with k := ⟨s.seq.k.val + 1, by omega⟩, state := .load } }
  else { s' with seq := { s'.seq with state := .launch } }

/-- LAUNCH (R157): `RegWrite(FSTAT, 0x80)`. -/
def seqLaunch (s : State) : State :=
  let s' := writeFstat .seq 0x80 s
  { s' with seq := { s'.seq with state := .poll } }

/-- POLL (R158, R162): one read of FSTAT; CCIF = 1 ends the wait, else the callback is invoked if one is
registered. -/
def seqPoll (s : State) : State :=
  let s' := logRead .seq .fstat s
  if s.ccif then { s' with seq := { s'.seq with state := .decode } }
  else if s.cfg.callback then
    ({ s' with seq := { s'.seq with state := .cbWait } }).emit .callbackInvoke
  else s'

/-- DECODE (R159-R161): one more read of FSTAT, its decoding, and `Done`. -/
def seqDecode (s : State) : State :=
  let s' := logRead .seq .fstat s
  let r := decodeStatus s.win.fstat
  endOperation .seq s.seq.owner r
    { s' with seq := { s'.seq with fstat := s.win.fstat, result := r, state := .idle } }

/-- SEQ's step. It takes none in IDLE (a request is accepted by an offer), in CB_WAIT (R162), or while
halted by a DebugBreak (R320). -/
def seqStep (s : State) : State :=
  if s.seq.halted then s
  else
    match s.seq.state with
    | .idle => s
    | .waitReady => seqWaitReady s
    | .clearErr => seqClearErr s
    | .load => seqLoad s
    | .launch => seqLaunch s
    | .poll => seqPoll s
    | .cbWait => s
    | .decode => seqDecode s

/-- The callback's step (R162): its return takes SEQ from CB_WAIT back to POLL. It may read or execute array
bytes, but not of a busy block (R344). A register access or a request breaks the premise R163 and is the
fault of 93 I10 (log 33). Outside CB_WAIT it takes no step. -/
def cbStep (m : CbMove) (s : State) : Result :=
  if s.seq.state == .cbWait then
    match m with
    | .ret => .next (({ s with seq := { s.seq with state := .poll } }).emit .callbackReturn)
    | .arrayRead addr => callbackMemRead addr s
    | .access _ => .fault .concurrentAccess
    | .request _ => .fault .concurrentAccess
  else .next s

end Sys2Proof.Machine
end

