-- ==== Sys2Proof/Machine/Swp.lean ====
section
/-! DEFINITION. The steps of SWP, one offer to SEQ or one register read each (42_swap_fsm.md R220-R235). -/

namespace Sys2Proof.Machine

/-! ## Addresses -/

/-- The step-1 check (R222): the address is in bank 0, the lower half of P-Flash, and outside the
flash-configuration-field sub-range. Arithmetic is on mathematical integers (R12). -/
def swapAddrOk (cfg : Config) (addr : Addr) : Bool :=
  let x := addr.toNat
  let base := cfg.pflashBase.toNat
  (decide (base ≤ x) && decide (x < base + cfg.pflashSize.toNat / 2)) &&
    !(decide (base + cfg.fcfLo.toNat ≤ x) && decide (x < base + cfg.fcfHi.toNat))

/-- `ia`: the P-Flash translation of the indicator address (R220, R223). -/
def indicatorAddr (cfg : Config) (addr : Addr) : IAddr :=
  BitVec.ofNat 24 (addr.toNat - cfg.pflashBase.toNat)

/-- `sector_base(x)` (R220). -/
def sectorBase (cfg : Config) (x : Nat) : Nat :=
  x - (x - cfg.pflashBase.toNat) % cfg.psectorSize.toNat

/-- `e`: the start of the sector that holds the indicator's counterpart one half-bank above (R232). -/
def eraseTarget (cfg : Config) (addr : Addr) : Nat :=
  sectorBase cfg (addr.toNat + cfg.pflashSize.toNat / 2)

/-- The internal address of `e` (R232). -/
def eraseAddr (cfg : Config) (addr : Addr) : IAddr :=
  BitVec.ofNat 24 (eraseTarget cfg addr - cfg.pflashBase.toNat)

/-! ## Steps -/

/-- `finish(v)` (R233). -/
def swpFinish (v : Code) (s : State) : State :=
  endOperation .swp .host v
    { s with swp := { s.swp with result := v, call := .none, state := .idle } }

/-- SWP goes to another state, with no register access. -/
def swpGoto (st : SwpState) (s : State) : State :=
  { s with swp := { s.swp with call := .none, state := st } }

/-- `swp_mode <- RegRead(FCCOB5)` (R226, R230). -/
def swpReadMode (s : State) : State :=
  let s' := logRead .swp (.fccob 5) s
  { s' with swp := { s'.swp with mode := readReg s (.fccob 5) } }

/-- S_CHECK (R222). `swp_phase` is 0 until a phase runs (R229). DESIGN CHOICE: a check that passes clears it, one
that fails leaves it (log 60). -/
def swpCheck (s : State) : State :=
  if swapAddrOk s.cfg s.swp.addr then
    swpGoto .query { s with swp := { s.swp with phase := 0 } }
  else swpFinish codeRange s

/-- A state that has a command in SEQ (R220, R221): offer it; wait for `Done(r)`; on a nonzero result finish
with it (R226, R234), else go on to `next`. -/
def swpCommand (offer : State → Result) (next : SwpState) (s : State) : Result :=
  match s.swp.call with
  | .none => offer { s with port := .swp }
  | .inFlight => .next s
  | .done r =>
    if r = codeSuccess then .next (swpGoto next s)
    else .next (swpFinish r s)

/-- S_READMODE (R226): the state the read-back serves is told by the phase (R229). -/
def swpAfterCommand (s : State) : State :=
  swpGoto
    (if s.swp.phase = 0 then .dispatch
     else if s.swp.phase = 1 then .waitUninit
     else if s.swp.phase = 2 then .waitReady
     else .waitComp)
    (swpReadMode s)

/-- S_DISPATCH (R229): the first phase after the last one run whose guard holds in `swp_mode`; Success if
none does. DESIGN CHOICE: `swp_phase` becomes the phase as it is entered, before its command succeeds or
fails (log 60). -/
def swpDispatch (s : State) : State :=
  let c := s.cfg.swapState
  let m := s.swp.mode
  let run (p : BitVec 2) (st : SwpState) : State :=
    swpGoto st { s with swp := { s.swp with phase := p } }
  if s.swp.phase < 1 && m == c.uninit then run 1 .setInd
  else if s.swp.phase < 2 && m == c.ready then run 2 .setPrep
  else if s.swp.phase < 3 && m == c.update then run 3 .erase
  else if s.swp.phase < 3 && m == c.updateErased then run 3 .setComp
  else swpFinish codeSuccess s

/-- A busy-wait (R230, R231): on to S_DISPATCH when `leave` holds; else re-query, by one read of FCCOB5 or by
a report-status command and its read-back. -/
def swpWait (leave : Bool) (s : State) : Result :=
  match s.cfg.waitMode with
  | .rereadFccob5 => if leave then .next (swpGoto .dispatch s) else .next (swpReadMode s)
  | .reissueReport =>
    if leave && s.swp.call == .none then .next (swpGoto .dispatch s)
    else
      swpCommand (execPFlashSwapReportStatus (indicatorAddr s.cfg s.swp.addr)) .readMode s

/-- SWP's step (R220, R46). It takes none in S_IDLE (a SWAP is accepted by an offer) or while halted
(R320). -/
def swpStep (s : State) : Result :=
  if s.swp.halted then .next s
  else
    let ia := indicatorAddr s.cfg s.swp.addr
    match s.swp.state with
    | .idle => .next s
    | .check => .next (swpCheck s)
    | .query => swpCommand (execPFlashSwapReportStatus ia) .readMode s
    | .readMode => .next (swpAfterCommand s)
    | .dispatch => .next (swpDispatch s)
    | .setInd => swpCommand (execPFlashSwapSetIndicatorAddress ia) .readMode s
    | .waitUninit => swpWait (s.swp.mode != s.cfg.swapState.uninit) s
    | .setPrep => swpCommand (execPFlashSwapSetInPrepare ia) .readMode s
    | .waitReady => swpWait (s.swp.mode != s.cfg.swapState.ready) s
    | .erase => swpCommand (execEraseSector (eraseAddr s.cfg s.swp.addr)) .setComp s
    | .setComp => swpCommand (execPFlashSwapSetInComplete ia) .readMode s
    | .waitComp => swpWait (s.swp.mode == s.cfg.swapState.complete) s

end Sys2Proof.Machine
end

