-- ==== Sys2Proof/Machine/Environment.lean ====
section
/-! DEFINITION. The interleaving of the agents, the environment's own events, and the place where the next
instruction is offered (00_scope.md R6, R14, 70_reset_and_hazards.md R330-R332). -/

namespace Sys2Proof.Machine

/-- Nothing is in operation: SEQ and SWP idle, no command in flight (R332). DESIGN CHOICE: an FSM halted by a
DebugBreak has ended its operation and counts as idle, so a reset goes through and ends the halt (log 54). -/
def State.quiet (s : State) : Bool :=
  s.seq.state == .idle && s.swp.state == .idle && !s.nvm.busy

/-- A reset (R330, R331): the launch values are drawn; the arrays, the information row and the EERAM function
stay (log 31), and no FSM is halted (log 54). In mid-operation it is refused (R332). -/
def resetStep (l : Launch) (s : State) : Result :=
  if s.quiet then
    .next (State.launch s.cfg l s.nvm.flash s.nvm.ifr s.nvm.eeram s.history s.inputs s.tick)
  else .refused .refuseResetInFlight

/-- A low-power entry (R325): nothing happens to an idle block; in mid-operation it is refused (93 I22). -/
def lowPowerStep (s : State) : Result :=
  if s.quiet then .next s else .refused .refuseLowPower

/-- FSTAT bits 3:1 read as the draw of this step (R35; log 5). -/
def floatFstat (rsv : BitVec 3) (s : State) : State :=
  { s with win := { s.win with fstat := floatReserved rsv s.win.fstat } }

/-- The step of the agent that moves (R6, R14). -/
def moveStep (m : Move) (s : State) : Result :=
  match m with
  | .seq => .next (seqStep s)
  | .swp => swpStep s
  | .nvm o => .next (nvmStep o s)
  | .cb c => cbStep c s
  | .host h => hostStep h s
  | .debugResume f => .next (resumeFsm f s)
  | .reset l => resetStep l s
  | .lowPower => lowPowerStep s

/-- One step with a given input. -/
def stepInput (i : Input) (s : State) : Result :=
  moveStep i.move (floatFstat i.rsv s)

/-- The input of the next step: the first one listed, or a free one (log 39). -/
def nextInput (s : State) : Input :=
  match s.inputs with
  | [] => Config.freeInput s.tick
  | i :: _ => i

/-- That input is used up. -/
def consumeInput (s : State) : State :=
  match s.inputs with
  | [] => { s with tick := s.tick + 1 }
  | _ :: t => { s with inputs := t }

/-- The input in which HOST offers a request, FSTAT's bits 3:1 reading as they stand. -/
def offerInput (s : State) (r : Request) : Input :=
  { rsv := s.win.fstat.extractLsb' 1 3
    move := .host (.call (.request r) { fails := false, pick := 0 }) }

/-- The state in which HOST, running no procedure, offers a request next. -/
def offering (s : State) (r : Request) : State :=
  { s with
    req := { s.req with ctl := .idle, call := .none }
    inputs := offerInput s r :: s.inputs }

/-- The request of a table word (Decode.lean); a word that is no command object is offered as one with a
parameter count above 11, which is refused. -/
def tableWordRequest (nbits w : Nat) : Request :=
  match tableRequest nbits w with
  | .ok r => r
  | .error _ => .execute 15 (Vector.replicate 12 0)

end Sys2Proof.Machine
end

