-- ==== Sys2Proof/Machine/Step.lean ====
section
/-! DEFINITION. One step of the machine: one atomic transition of one agent (00_scope.md R6, R14). -/

namespace Sys2Proof.Machine

/-- The next state: the agent the next input names takes its step. -/
def step (s : State) : Host.Outcome State Fault Refusal :=
  stepInput (nextInput s) (consumeInput s)

/-- The state in which the next step is HOST's offer of the command a table word spells: HOST runs no
procedure, has no request, and offers it as the next input, in which FSTAT's floating bits stay as they
are (log 3). -/
def State.withFetchWord (s : State) (nbits w : Nat) : State :=
  offering s (tableWordRequest nbits w)

end Sys2Proof.Machine
end

