-- ==== Sys2Proof/Safety.lean ====
section
/-! DEFINITION. The terms claims are stated in: launch premises, runs over given inputs, what a served
command leaves, the nominal swap controller, and the invariants (40_sequencer.md section 7,
70_reset_and_hazards.md R333, 42_swap_fsm.md R240). -/

namespace Sys2Proof.Machine

/-! ## Premises -/

/-- A command offered now is accepted and finds the controller idle: the port is open to the requester
(R151, R152), CCIF = 1 and no command is in flight (R32). -/
def State.ready (s : State) : Bool :=
  portOpen s && s.ccif && !s.nvm.busy

/-- The callback's move keeps to R163: it neither accesses the register window nor offers a request. -/
def callbackKeeps (cfg : Config) : Move → Bool
  | .cb .ret => true
  | .cb (.arrayRead addr) => (regAt cfg addr).isNone
  | .cb (.access _) => false
  | .cb (.request _) => false
  | .seq => true
  | .swp => true
  | .nvm _ => true
  | .host _ => true
  | .debugResume _ => true
  | .reset _ => true
  | .lowPower => true

/-- P_CALLBACK meets R163 in every step to come, whatever gives its input: the list `ins` of a run by
`runInputs`, the list in the state, or, past its end, the free inputs (log 39). -/
structure State.CallbackMeets (ins : List Input) (s : State) : Prop where
  given  : ∀ i ∈ ins, callbackKeeps s.cfg i.move = true
  listed : ∀ i ∈ s.inputs, callbackKeeps s.cfg i.move = true
  free   : ∀ n, s.tick ≤ n → callbackKeeps s.cfg (Config.freeInput n).move = true

/-- `CleanLaunch` (R333), conjunct by conjunct, for a run from `s` with the inputs `ins` (none, for one by `step`).
No fault is recorded because a fault ends a run. -/
structure State.CleanLaunch (ins : List Input) (s : State) : Prop where
  seqIdle    : s.seq.state = .idle
  swpIdle    : s.swp.state = .idle
  notBusy    : s.nvm.busy = false ∧ s.ccif = true
  configured : s.cfg.wf = true
  initDone   : s.req.initDone = true
  callback   : s.CallbackMeets ins

/-- `NoDebugBreak` (R333). -/
def State.noDebugBreak (s : State) : Bool := !s.cfg.debugEnable

/-! ## Runs -/

/-- The steps with the given inputs, in order, up to the first stop. -/
def runInputs : List Input → State → Result
  | [], s => .next s
  | i :: t, s =>
    match stepInput i s with
    | .next s' => runInputs t s'
    | .fault f => .fault f
    | .refused f => .refused f

/-- Inputs that make the given moves, FSTAT's reserved bits reading as anything in each step (R35). -/
def makes (ins : List Input) (moves : List Move) : Prop := ins.map Input.move = moves

/-- The moves by which an accepted command with parameter count `n` is served without waiting (R167 with
k1 = k2 = 1): SEQ reads FSTAT, clears the flags, loads n+1 slots and launches; the controller completes
with outcome `o`; SEQ reads FSTAT twice. -/
def commandMoves (n : Slot) (o : NvmOutcome) : List Move :=
  List.replicate (n.val + 4) Move.seq ++ (Move.nvm o :: List.replicate 2 Move.seq)

/-! ## What a served command leaves -/

/-- The result code of an outcome (R160, R170). -/
def outcomeCode (o : NvmOutcome) : Code :=
  if o.accerr then 0x0004 else if o.fpviol then 0x0008 else if o.mgstat0 then 0x0010 else 0x0000

/-- The named flags of FSTAT after a completion on clean flags (R170, R176). -/
def outcomeStatus (o : NvmOutcome) : Byte :=
  0x80 ||| (if o.rdcolerr then 0x40 else 0) ||| (if o.accerr then 0x20 else 0) |||
    (if o.fpviol then 0x10 else 0) ||| (if o.mgstat0 then 0x01 else 0)

/-- The FCCOB slots a command object leaves at its launch: its own in 0..n, the old ones above (R121, R156). -/
def loadedSlot (n : Slot) (p : Slots) (old : Slots) (i : Slot) : Byte :=
  if i.val ≤ n.val then p.get i else old.get i

/-- Whether an event is a register access (R14, R167). -/
def Event.isAccess : Event → Bool
  | .regRead _ _ _ _ => true
  | .regWrite _ _ _ _ => true
  | _ => false

/-- The number of register accesses among events. -/
def accessCount (h : List Event) : Nat := (h.filter Event.isAccess).length

/-- The polls of a busy wait (R158, R162): each is a read of FSTAT, and with a registered callback the
callback's return. -/
def pollMoves (callback : Bool) (k : Nat) : List Move :=
  (List.replicate k (if callback then [Move.seq, Move.cb .ret] else [Move.seq])).flatten

/-- A register access as the trace R167 writes it: a read, or a write with its value. -/
inductive Access where
  | read (r : Reg)
  | write (r : Reg) (v : Byte)
deriving DecidableEq, Repr

/-- The register accesses among events, oldest first. -/
def accesses (h : List Event) : List Access :=
  h.reverse.filterMap fun e =>
    match e with
    | .regRead _ r _ _ => some (.read r)
    | .regWrite _ r _ v => some (.write r v)
    | _ => none

/-- The trace of R167: `k1` reads, the clear, the `n+1` slots in order, the launch, `k2` polls, the decode
read. -/
def executeTrace (n : Slot) (p : Slots) (k1 k2 : Nat) : List Access :=
  List.flatten
    [List.replicate k1 (Access.read .fstat), [Access.write .fstat 0x70],
     (allSlots.filter fun j => decide (j.val ≤ n.val)).map fun j => Access.write (.fccob j) (p.get j),
     [Access.write .fstat 0x80], List.replicate (k2 + 1) (Access.read .fstat)]

/-- The FCCOB writes among events, oldest first: slot and byte. -/
def loads (h : List Event) : List (Slot × Byte) :=
  (accesses h).filterMap fun x =>
    match x with
    | .write (.fccob i) v => some (i, v)
    | _ => none

/-- The FCCOB writes that load a command object given by its bytes. -/
def loadsOf (l : List Byte) : List (Slot × Byte) := allSlots.zip l

/-- The FCCOB writes that load slots 0..n of `p` (R156). -/
def loadsOfSlots (n : Slot) (p : Slots) : List (Slot × Byte) :=
  (allSlots.filter fun i => decide (i.val ≤ n.val)).map fun i => (i, p.get i)

/-- The object `(n, p)` is a command in a layout (R9, R120, R126): the row's `n`, the opcode in FCCOB0, operand
byte `j` in the `j`-th slot of the row, 0 in every other slot. -/
def LaidOut (r : LayoutRow) (op : Byte) (bytes : List Byte) (n : Slot) (p : Slots) : Prop :=
  n = r.n ∧ p.get 0 = op ∧ r.params.length = bytes.length ∧
    (∀ (j : Nat) (i : Slot), r.params[j]? = some i → bytes[j]? = some (p.get i)) ∧
    ∀ i : Slot, i ≠ 0 → i ∉ r.params → p.get i = 0

/-- `A(a)` (R124). -/
def addressBytes (a : IAddr) : List Byte := [a.extractLsb' 16 8, a.extractLsb' 8 8, a.extractLsb' 0 8]

/-- Byte `j` of a longword in its FCCOB image (R98, R128). -/
def dataByte (e : Endian) (v : BitVec 32) (j : Fin 4) : Byte :=
  match e, j with
  | .le, 0 => v.extractLsb' 0 8
  | .le, 1 => v.extractLsb' 8 8
  | .le, 2 => v.extractLsb' 16 8
  | .le, 3 => v.extractLsb' 24 8
  | .be, 0 => v.extractLsb' 24 8
  | .be, 1 => v.extractLsb' 16 8
  | .be, 2 => v.extractLsb' 8 8
  | .be, 3 => v.extractLsb' 0 8

/-- `pack_4(v)` (R128), byte by byte. -/
def dataBytes (e : Endian) (v : BitVec 32) : List Byte :=
  [dataByte e v 0, dataByte e v 1, dataByte e v 2, dataByte e v 3]

/-- A HOST call that ends at once with a code and touches nothing of the block (R264): the one new event is
its return. -/
def EndsUntouched (code : Code) (s : State) (r : Result) : Prop :=
  ∃ u, r = .next u ∧ u.history = .returned { code := code, failAddr := none, data := [] } :: s.history ∧
    u.req.ctl = .idle ∧ u.req.ret.code = code ∧ u.cfg = s.cfg ∧ u.seq = s.seq ∧ u.swp = s.swp ∧
    u.nvm = s.nvm ∧ namedFlags u.win.fstat = namedFlags s.win.fstat ∧
    u.win = { s.win with fstat := u.win.fstat }

/-- The code of R261 and R262 for a request that fails its checks: `contained` is the region test. -/
def callerError (al dest size : Nat) (contained : Bool) (code : Code) : Prop :=
  (dest % al ≠ 0 ∧ code = 0x0100) ∨
  (dest % al = 0 ∧ size % al ≠ 0 ∧ code = 0x0001) ∨
  (dest % al = 0 ∧ size % al = 0 ∧ contained = false ∧ code = 0x0002)

/-- The end-address containment of R263 in P-Flash. -/
def endsInP (cfg : Config) (dest size : Nat) : Bool :=
  decide (cfg.pflashBase.toNat ≤ dest ∧ dest + size ≤ cfg.pflashBase.toNat + cfg.pflashSize.toNat)

/-- The end-address containment of R263 in D-Flash. -/
def endsInD (cfg : Config) (dest size : Nat) : Bool :=
  decide (cfg.dflashBase.toNat ≤ dest ∧ dest + size ≤ cfg.dflashBase.toNat + cfg.dflashSize.toNat)

/-- The start-address containment of R263 in P-Flash. -/
def startsInP (cfg : Config) (dest : Nat) : Bool :=
  decide (cfg.pflashBase.toNat ≤ dest ∧ dest < cfg.pflashBase.toNat + cfg.pflashSize.toNat)

/-- The start-address containment of R263 in D-Flash. -/
def startsInD (cfg : Config) (dest : Nat) : Bool :=
  decide (cfg.dflashBase.toNat ≤ dest ∧ dest < cfg.dflashBase.toNat + cfg.dflashSize.toNat)

/-- The FPROT registers as one 32-bit value (R275). -/
def protWord (cfg : Config) (w : Window) : BitVec 32 :=
  w.fprot.get (cfg.fprotOrder.get 0) ++ w.fprot.get (cfg.fprotOrder.get 1) ++
    w.fprot.get (cfg.fprotOrder.get 2) ++ w.fprot.get (cfg.fprotOrder.get 3)

/-- The outcome of a setter (R276): the result code and the value the register then holds. -/
def setterOutcome {w : Nat} (m : ProtMode) (old new : BitVec w) : Code × BitVec w :=
  if m = .special then (0x0000, new)
  else if (new ^^^ old) &&& new = 0 then (0x0000, new)
  else (0x0020, old)

/-- What the service of command object `(n, p)` with outcome `o` leaves of state `s`: the state `u` after
SEQ's DECODE step (R150, R155-R161, R169, R170, R176), field by field. What the rules leave abstract is
the model's: the array bytes take drawn values inside the command's footprint (logs 11, 27), and FSEC,
swap_state, the information row and the EERAM function a drawn value where the command may change them
(logs 12, 13, 38), FCNFG for any command (log 14). Everything else is unchanged. -/
structure Served (n : Slot) (p : Slots) (o : NvmOutcome) (s u : State) : Prop where
  seqIdle   : u.seq.state = .idle
  result    : u.seq.result = outcomeCode o
  latched   : u.seq.n = n ∧ u.seq.buf = p ∧ u.seq.owner = s.port
  answered  : (match s.port with | .host => u.req.call | .swp => u.swp.call) = .done (outcomeCode o)
  halted    : u.seq.halted = s.cfg.debugEnable
  command   : ∀ i, u.nvm.cmd.get i = loadedSlot n p s.win.fccob i
  idle      : u.nvm.busy = false
  fccob     : ∀ i, u.win.fccob.get i = (o.ret.get i).getD (loadedSlot n p s.win.fccob i)
  status    : namedFlags u.win.fstat = outcomeStatus o
  decoded   : namedFlags u.seq.fstat = outcomeStatus o
  accesses  : ∃ h, u.history = h ++ s.history ∧ accessCount h = n.val + 6
  config    : u.cfg = s.cfg
  protection : u.win.fprot = s.win.fprot ∧ u.win.fdprot = s.win.fdprot ∧
    u.win.feprot = s.win.feprot ∧ u.nvm.protMode = s.nvm.protMode
  fopt      : u.win.fopt = s.win.fopt
  fsec      : u.win.fsec
    = if mayChangeFsec s.cfg u.nvm.cmd then o.fsec.getD s.win.fsec else s.win.fsec
  fcnfg     : u.win.fcnfg = o.fcnfg.getD s.win.fcnfg
  flash     : u.nvm.flash = Memory.writeCells (mayChange s.cfg u.nvm.cmd) o.flash s.nvm.flash
  untouched : ∀ x, mayChange s.cfg u.nvm.cmd x = false →
    Memory.read u.nvm.flash x = Memory.read s.nvm.flash x
  ifr       : u.nvm.ifr = if mayChangeIfr s.cfg u.nvm.cmd
    then Memory.writeCells (fun _ => true) o.ifr s.nvm.ifr else s.nvm.ifr
  eeram     : u.nvm.eeram
    = if mayChangeEeram s.cfg u.nvm.cmd then o.eeram.getD s.nvm.eeram else s.nvm.eeram
  swapState : u.nvm.swapState
    = if mayChangeSwap s.cfg u.nvm.cmd then o.swapState.getD s.nvm.swapState else s.nvm.swapState
  others    : u.port = s.port ∧ u.inputs = s.inputs ∧ u.tick = s.tick ∧
    u.swp = { s.swp with call := u.swp.call } ∧ u.req = { s.req with call := u.req.call }

/-- An instruction is served as the command object `(n, p)`: exec accepts exactly that object, and from there
every run that serves it without waiting ends with `Done` and leaves what `Served` says. -/
def ServedAs (i : Instr) (n : Slot) (p : Slots) (s : State) : Prop :=
  exec i s = .next (acceptExecute n p s) ∧
    ∀ (o : NvmOutcome) (ins : List Input), makes ins (commandMoves n o) →
      ∃ u, runInputs ins (acceptExecute n p s) = .next u ∧ Served n p o s u

/-- The instruction of a listed command is served, whatever P_LAYOUT's row for it: as an object in that row, which
is `(n₀, p₀)` where P_LAYOUT is the table R126. -/
def ServedInLayout (i : Instr) (o : Opcode) (bytes : List Byte) (n₀ : Slot) (p₀ : Slots) (s : State) :
    Prop :=
  ∃ n p, LaidOut (s.cfg.layout.row o) p₀[0] bytes n p ∧
    (s.cfg.layout = Layout.standard → n = n₀ ∧ p = p₀) ∧ ServedAs i n p s

/-! ## The nominal swap controller (R240) -/

/-- The FCCOB5 code of a swap state (R127). -/
def swapStateCode (c : SwapStateCodes) : SwapState → Byte
  | .uninitialized => c.uninit
  | .ready => c.ready
  | .update => c.update
  | .updateErased => c.updateErased
  | .complete => c.complete

/-- A row of the table R240: the swap state after, whether ACCERR is the flag drawn (else none is), and the
byte returned in FCCOB5, if any. -/
structure NominalRow where
  after  : SwapState
  accerr : Bool
  fccob5 : Option Byte
deriving DecidableEq, Repr

/-- The erase is of the sector that holds the indicator's counterpart in the non-active bank (R232, R240), `ind`
being the indicator's internal address. -/
def erasesIndicator (cfg : Config) (ind : IAddr) (cmd : Slots) : Bool :=
  let a := (addrIn cfg .eraseSector cmd).toNat
  decide (a < dflashInternal) &&
    a / cfg.psectorSize.toNat == (ind.toNat + cfg.pflashSize.toNat / 2) / cfg.psectorSize.toNat

/-- The row of the table R240 for the completion of command `cmd` with the swap state at `st`; none where the
table has no row. -/
def nominalRow (cfg : Config) (ind : IAddr) (cmd : Slots) (st : SwapState) : Option NominalRow :=
  let code := fieldByte cfg.layout.pFlashSwap cmd 3
  let advance (st' : SwapState) : Option NominalRow :=
    some { after := st', accerr := false, fccob5 := some (swapStateCode cfg.swapState st') }
  match opcodeOf cmd[0] with
  | some .pFlashSwap =>
    if code = cfg.swapCode.report then advance st
    else if code = cfg.swapCode.setInd ∧ st = .uninitialized then advance .ready
    else if code = cfg.swapCode.setPrep ∧ st = .ready then advance .update
    else if code = cfg.swapCode.setComp ∧ st = .updateErased then advance .complete
    else some { after := st, accerr := true, fccob5 := none }
  | some .eraseSector =>
    if erasesIndicator cfg ind cmd ∧ st = .update then
      some { after := .updateErased, accerr := false, fccob5 := none }
    else none
  | _ => none

/-- The outcome is one the nominal swap controller may draw for command `cmd` with the swap state at `st`. Its
transitions are the table's alone, so a completion with no row there leaves the swap state as it is, Complete
among them (93 I33), and is the default draw otherwise. DEDUCED (log 56). -/
def nominal (cfg : Config) (ind : IAddr) (cmd : Slots) (st : SwapState) (o : NvmOutcome) : Bool :=
  match nominalRow cfg ind cmd st with
  | none => swapStateAfter cfg cmd o st == st
  | some r =>
    !o.rdcolerr && o.accerr == r.accerr && !o.fpviol && !o.mgstat0 &&
      swapStateAfter cfg cmd o st == r.after && o.ret.get 5 == r.fccob5

/-- The moves of one command issued by SWP: the offer, its service, and SWP's taking of `Done`. -/
def swapCommandMoves (n : Slot) (o : NvmOutcome) : List Move :=
  Move.swp :: (commandMoves n o).append [Move.swp]

/-- The moves of a swap from Uninitialized (V20): the check; report and read-back; the three phases, each
entered by a dispatch, the waits being left at once; the finish. -/
def swapMoves (report setInd setPrep erase setComp : NvmOutcome) : List Move :=
  List.flatten
    [[Move.swp], swapCommandMoves 4 report, [Move.swp],
     [Move.swp], swapCommandMoves 4 setInd, [Move.swp, Move.swp],
     [Move.swp], swapCommandMoves 4 setPrep, [Move.swp, Move.swp],
     [Move.swp], swapCommandMoves 3 erase, swapCommandMoves 4 setComp, [Move.swp, Move.swp],
     [Move.swp]]

/-- The swap-state code `m` keeps SWP in its busy-wait (R230, R231). -/
def keepsWaiting (c : SwapStateCodes) (st : SwpState) (m : Byte) : Prop :=
  (st = .waitUninit ∧ m = c.uninit) ∨ (st = .waitReady ∧ m = c.ready) ∨ (st = .waitComp ∧ m ≠ c.complete)

/-- The phase a busy-wait of SWP belongs to (R229), and the wait to which a read-back of that phase returns. -/
def waitOfPhase : BitVec 2 → SwpState
  | 0 => .dispatch
  | 1 => .waitUninit
  | 2 => .waitReady
  | 3 => .waitComp

/-! ## Invariants -/

/-- `FSTAT[7] = not nvm_busy` (R32, R60). -/
def CcifInv (s : State) : Prop := s.ccif = !s.nvm.busy

/-- The protocol order of SEQ (R153-R157): past WAIT_READY CCIF = 1 until the launch; from LOAD on the error
flags are clear; the slots loaded so far hold the request's bytes. -/
def SeqInv (s : State) : Prop :=
  match s.seq.state with
  | .clearErr => s.ccif = true
  | .load =>
    s.ccif = true ∧ rdcolerr s.win.fstat = false ∧ accerr s.win.fstat = false ∧
      fpviol s.win.fstat = false ∧ s.seq.k.val ≤ s.seq.n.val ∧
      ∀ i : Slot, i.val < s.seq.k.val → s.win.fccob.get i = s.seq.buf.get i
  | .launch =>
    s.ccif = true ∧ rdcolerr s.win.fstat = false ∧ accerr s.win.fstat = false ∧
      fpviol s.win.fstat = false ∧
      ∀ i : Slot, i.val ≤ s.seq.n.val → s.win.fccob.get i = s.seq.buf.get i
  | .poll => ∀ i : Slot, i.val ≤ s.seq.n.val → s.nvm.cmd.get i = s.seq.buf.get i
  | .cbWait => ∀ i : Slot, i.val ≤ s.seq.n.val → s.nvm.cmd.get i = s.seq.buf.get i
  | .decode =>
    s.ccif = true ∧ ∀ i : Slot, i.val ≤ s.seq.n.val → s.nvm.cmd.get i = s.seq.buf.get i
  | .idle => True
  | .waitReady => True

/-- The memories keep their canonical form. -/
def MemoryInv (s : State) : Prop :=
  Memory.wf s.nvm.flash = true ∧ Memory.wf s.nvm.ifr = true

/-- A result code is 0x0000 or has a single set bit (R302). -/
def singleCode (r : Code) : Bool := r &&& (r - 1) == 0

/-- The results of a completed EXECUTE (R174). -/
def executeCodes : List Code := [0x0000, 0x0004, 0x0008, 0x0010]

/-- The results of a SWAP (R220). -/
def swapCodes : List Code := [0x0000, 0x0002, 0x0004, 0x0008, 0x0010]

/-- The result codes the machine holds or has reported are those of R174, R220 and R302. -/
def CodesInv (s : State) : Prop :=
  (∀ r, s.swp.call = .done r → r ∈ executeCodes) ∧
  (∀ r, s.req.call = .done r → r ∈ swapCodes) ∧
  (∀ g r a todo got, s.req.ctl = .readBack g r a todo got → singleCode r = true) ∧
  (∀ o r, .done .seq o r ∈ s.history → r ∈ executeCodes) ∧
  (∀ o r, .done .swp o r ∈ s.history → r ∈ swapCodes) ∧
  (∀ r, .returned r ∈ s.history → singleCode r.code = true)

/-- SWP's state and the phase it runs in (R229, log 60): each control command belongs to one phase. -/
def SwpInv (s : State) : Prop :=
  match s.swp.state with
  | .query => s.swp.phase = 0
  | .setInd => s.swp.phase = 1
  | .waitUninit => s.swp.phase = 1
  | .setPrep => s.swp.phase = 2
  | .waitReady => s.swp.phase = 2
  | .erase => s.swp.phase = 3
  | .setComp => s.swp.phase = 3
  | .waitComp => s.swp.phase = 3
  | .idle => True
  | .check => True
  | .readMode => True
  | .dispatch => True

end Sys2Proof.Machine
end

