-- ==== Sys2Proof/Certificates/Slice0/Obligations.lean ====
section
/-! DEFINITION. The statements for the provers. -/

open Sys2Proof Sys2Proof.Machine

/-! ## Encoding -/

/-- Decoding the request of a well-formed instruction gives the instruction back, for every operand value
(R126, R127, R133), in every P_LAYOUT (R9; log 22). The swap codes must be distinct (log 45): equal codes
cannot be told apart. -/
def Obligations.EncodedInstructionsDecodeBack : Prop :=
  ∀ (cfg : Config) (i : Instr), cfg.swapCode.distinct = true → cfg.layout.ok = true →
    i.wf cfg = true →
    decode cfg (encode cfg i) = .ok i

/-- Encoding a decoded instruction gives the request back, so decoding drops no bit, and every decoded
instruction is well formed, in every P_LAYOUT (log 22). That any other object is the row EXECUTE is the
model's choice (log 23). -/
def Obligations.DecodedRequestsEncodeBack : Prop :=
  ∀ (cfg : Config) (r : Request) (i : Instr), cfg.layout.ok = true → decode cfg r = .ok i →
    encode cfg i = r ∧ i.wf cfg = true

/-- A parameter count above 11 is what the decoder rejects, and nothing else; and EXECUTE with one is refused by
name in every state (R151). -/
def Obligations.LongCountsAreRefused : Prop :=
  (∀ (cfg : Config) (r : Request) (e : DecodeError),
    decode cfg r = .error e ↔ ∃ n p, r = .execute n p ∧ 11 < n.toNat ∧ e = .paramCount) ∧
  (∀ (s : State) (n : BitVec 4) (p : Slots), 11 < n.toNat →
    exec (.execute n p) s = .refused .refuseParamCount)

/-- Command objects written out from the examples of R191, R195, R197, R203, R224 and an unlisted opcode
(R131) decode to what they stand for, under the configuration of State.reset. -/
def Obligations.WrittenOutCommandsDecode : Prop :=
  decodeBytes Config.standard [0x01, 0x80, 0x00, 0x00, 0x00, 0x10, 0x00]
    = .ok (.verifySection 0x800000 16 0) ∧
  decodeBytes Config.standard
      [0x07, 0x00, 0x00, 0x08, 0x44, 0x33, 0x22, 0x11, 0x88, 0x77, 0x66, 0x55]
    = .ok (.programPhrase 0x000008 0x11223344 0x55667788) ∧
  decodeBytes Config.standard [0x09, 0x00, 0x08, 0x00] = .ok (.eraseSector 0x000800) ∧
  decodeBytes Config.standard [0x45, 0, 0, 0, 0x01, 0x02, 0x03, 0x04, 0x05, 0x06, 0x07, 0x08]
    = .ok (.securityBypass #v[1, 2, 3, 4, 5, 6, 7, 8]) ∧
  decodeBytes Config.standard [0x46, 0x00, 0x40, 0x00, 0x08]
    = .ok (.pFlashSwapReportStatus 0x004000) ∧
  decodeBytes Config.standard [0x04, 0xAA]
    = .ok (.execute 1 #v[0x04, 0xAA, 0, 0, 0, 0, 0, 0, 0, 0, 0, 0])

/-! ## A step runs the decoded instruction -/

/-- When the next input is HOST's offer of a request and HOST runs no procedure, the step is exec of the
decoded instruction, at the state with the input used up, FSTAT's reserved bits drawn (R35) and HOST
at SEQ's port. -/
def Obligations.StepRunsTheOfferedInstruction : Prop :=
  ∀ (s : State) (rsv : BitVec 3) (r : Request) (cap : CapDraw) (t : List Input) (i : Instr),
    s.inputs = { rsv := rsv, move := .host (.call (.request r) cap) } :: t →
    s.req.ctl = .idle → decode s.cfg r = .ok i →
    step s = exec i { s with
      win := { s.win with fstat := floatReserved rsv s.win.fstat }
      inputs := t
      port := .host
      req := { s.req with ctl := .commands .plain 0 [i], call := .none } }

/-- The step from `withFetchWord` is exec of the instruction its word spells, at the state in which HOST has
offered it and nothing else differs. How a program comes to run is the model's choice (log 3). -/
def Obligations.StepRunsTheFetchWord : Prop :=
  ∀ (s : State) (nbits w : Nat) (i : Instr), decode s.cfg (tableWordRequest nbits w) = .ok i →
    step (s.withFetchWord nbits w) = exec i { s with
      port := .host
      req := { s.req with ctl := .commands .plain 0 [i], call := .none } }

/-! ## The instructions complete -/

/-- Each verify command is accepted as the command object of R190, R191, R192, R199, in P_LAYOUT's row for it
(log 22), and served to `Done`. What Served leaves of FSEC,
FCNFG, the arrays, the information row, the EERAM function and swap_state is the model's (logs 11, 12, 13,
14, 27, 38). -/
def Obligations.VerifyCommandsAreServed : Prop :=
  ∀ (s : State) (a : IAddr) (margin : Byte) (count : BitVec 16) (v : BitVec 32), s.ready = true →
    s.cfg.layout.ok = true →
    ServedInLayout (.verifyBlock a margin) .verifyBlock (addressBytes a ++ [margin]) 4
      #v[0x00, a.extractLsb' 16 8, a.extractLsb' 8 8, a.extractLsb' 0 8, margin, 0, 0, 0, 0, 0, 0, 0] s ∧
    ServedInLayout (.verifySection a count margin) .verifySection
      (addressBytes a ++ [count.extractLsb' 8 8, count.extractLsb' 0 8, margin]) 6
      #v[0x01, a.extractLsb' 16 8, a.extractLsb' 8 8, a.extractLsb' 0 8,
         count.extractLsb' 8 8, count.extractLsb' 0 8, margin, 0, 0, 0, 0, 0] s ∧
    ServedInLayout (.programCheck a margin v) .programCheck
      (addressBytes a ++ [margin] ++ dataBytes s.cfg.endian v) 11
      #v[0x02, a.extractLsb' 16 8, a.extractLsb' 8 8, a.extractLsb' 0 8, margin, 0, 0, 0,
         dataByte s.cfg.endian v 0, dataByte s.cfg.endian v 1, dataByte s.cfg.endian v 2,
         dataByte s.cfg.endian v 3] s ∧
    ServedInLayout (.verifyAllBlock margin) .verifyAllBlock [margin] 1
      #v[0x40, margin, 0, 0, 0, 0, 0, 0, 0, 0, 0, 0] s

/-- Each program command is accepted as the command object of R194, R195, R198, R201, in P_LAYOUT's row for it
(log 22), and served. What Served leaves of FSEC,
FCNFG, the arrays, the information row, the EERAM function and swap_state is the model's (logs 11, 12, 13,
14, 27, 38). -/
def Obligations.ProgramCommandsAreServed : Prop :=
  ∀ (s : State) (a : IAddr) (index : Byte) (count : BitVec 16) (v w : BitVec 32), s.ready = true →
    s.cfg.layout.ok = true →
    ServedInLayout (.programLongword a v) .programLongword
      (addressBytes a ++ dataBytes s.cfg.endian v) 7
      #v[0x06, a.extractLsb' 16 8, a.extractLsb' 8 8, a.extractLsb' 0 8,
         dataByte s.cfg.endian v 0, dataByte s.cfg.endian v 1, dataByte s.cfg.endian v 2,
         dataByte s.cfg.endian v 3, 0, 0, 0, 0] s ∧
    ServedInLayout (.programPhrase a v w) .programPhrase
      (addressBytes a ++ dataBytes s.cfg.endian v ++ dataBytes s.cfg.endian w) 11
      #v[0x07, a.extractLsb' 16 8, a.extractLsb' 8 8, a.extractLsb' 0 8,
         dataByte s.cfg.endian v 0, dataByte s.cfg.endian v 1, dataByte s.cfg.endian v 2,
         dataByte s.cfg.endian v 3,
         dataByte s.cfg.endian w 0, dataByte s.cfg.endian w 1, dataByte s.cfg.endian w 2,
         dataByte s.cfg.endian w 3] s ∧
    ServedInLayout (.programSection a count) .programSection
      (addressBytes a ++ [count.extractLsb' 8 8, count.extractLsb' 0 8]) 5
      #v[0x0B, a.extractLsb' 16 8, a.extractLsb' 8 8, a.extractLsb' 0 8,
         count.extractLsb' 8 8, count.extractLsb' 0 8, 0, 0, 0, 0, 0, 0] s ∧
    ServedInLayout (.programOnce index v) .programOnce ([index] ++ dataBytes s.cfg.endian v) 7
      #v[0x43, index, 0, 0, dataByte s.cfg.endian v 0, dataByte s.cfg.endian v 1,
         dataByte s.cfg.endian v 2, dataByte s.cfg.endian v 3, 0, 0, 0, 0] s

/-- Each erase command is accepted as the command object of R196, R197, R202, R207, in P_LAYOUT's row for it
(log 22), and served. What Served leaves of FSEC,
FCNFG, the arrays, the information row, the EERAM function and swap_state is the model's (logs 11, 12, 13,
14, 27, 38). -/
def Obligations.EraseCommandsAreServed : Prop :=
  ∀ (s : State) (a : IAddr), s.ready = true → s.cfg.layout.ok = true →
    ServedInLayout (.eraseBlock a) .eraseBlock (addressBytes a) 3
      #v[0x08, a.extractLsb' 16 8, a.extractLsb' 8 8, a.extractLsb' 0 8, 0, 0, 0, 0, 0, 0, 0, 0] s ∧
    ServedAs (.eraseSector a) 3
      #v[0x09, a.extractLsb' 16 8, a.extractLsb' 8 8, a.extractLsb' 0 8, 0, 0, 0, 0, 0, 0, 0, 0] s ∧
    ServedInLayout .eraseAllBlock .eraseAllBlock [] 0
      #v[0x44, 0, 0, 0, 0, 0, 0, 0, 0, 0, 0, 0] s ∧
    ServedInLayout .eraseAllBlockUnsecure .eraseAllBlockUnsecure [] 0
      #v[0x49, 0, 0, 0, 0, 0, 0, 0, 0, 0, 0, 0] s

/-- Each resource, security and partition command is accepted as the command object of R193, R200, R203,
R205, R206, in P_LAYOUT's row for it (log 22), and served. What Served leaves of FSEC,
FCNFG, the arrays, the information row, the EERAM function and swap_state is the model's (logs 11, 12, 13,
14, 27, 38). -/
def Obligations.ResourceCommandsAreServed : Prop :=
  ∀ (s : State) (a : IAddr) (sel index eee depart ctl : Byte) (key : Vector Byte 8), s.ready = true →
    s.cfg.layout.ok = true →
    ServedInLayout (.readResource a sel) .readResource (addressBytes a ++ [sel]) 8
      #v[0x03, a.extractLsb' 16 8, a.extractLsb' 8 8, a.extractLsb' 0 8, 0, 0, 0, 0, sel, 0, 0, 0] s ∧
    ServedInLayout (.readOnce index) .readOnce [index] 1
      #v[0x41, index, 0, 0, 0, 0, 0, 0, 0, 0, 0, 0] s ∧
    ServedInLayout (.securityBypass key) .securityBypass key.toList 11
      #v[0x45, 0, 0, 0, key[0], key[1], key[2], key[3], key[4], key[5], key[6], key[7]] s ∧
    ServedInLayout (.programPartition eee depart) .programPartition [eee, depart] 5
      #v[0x80, 0, 0, 0, eee, depart, 0, 0, 0, 0, 0, 0] s ∧
    ServedInLayout (.setEERAM ctl) .setEERAM [ctl] 1 #v[0x81, ctl, 0, 0, 0, 0, 0, 0, 0, 0, 0, 0] s

/-- Each swap-control command is accepted with its code of P_SWAP_CODE in FCCOB4 (R204, R224, R225, R227,
R228), and served. What Served leaves of FSEC,
FCNFG, the arrays, the information row, the EERAM function and swap_state is the model's (logs 11, 12, 13,
14, 27, 38). -/
def Obligations.SwapControlCommandsAreServed : Prop :=
  ∀ (s : State) (a : IAddr) (code : Byte), s.ready = true → s.cfg.layout.ok = true →
    ServedAs (.pFlashSwap a code) 4
      #v[0x46, a.extractLsb' 16 8, a.extractLsb' 8 8, a.extractLsb' 0 8, code, 0, 0, 0, 0, 0, 0, 0] s ∧
    ServedAs (.pFlashSwapReportStatus a) 4
      #v[0x46, a.extractLsb' 16 8, a.extractLsb' 8 8, a.extractLsb' 0 8,
         s.cfg.swapCode.report, 0, 0, 0, 0, 0, 0, 0] s ∧
    ServedAs (.pFlashSwapSetIndicatorAddress a) 4
      #v[0x46, a.extractLsb' 16 8, a.extractLsb' 8 8, a.extractLsb' 0 8,
         s.cfg.swapCode.setInd, 0, 0, 0, 0, 0, 0, 0] s ∧
    ServedAs (.pFlashSwapSetInPrepare a) 4
      #v[0x46, a.extractLsb' 16 8, a.extractLsb' 8 8, a.extractLsb' 0 8,
         s.cfg.swapCode.setPrep, 0, 0, 0, 0, 0, 0, 0] s ∧
    ServedAs (.pFlashSwapSetInComplete a) 4
      #v[0x46, a.extractLsb' 16 8, a.extractLsb' 8 8, a.extractLsb' 0 8,
         s.cfg.swapCode.setComp, 0, 0, 0, 0, 0, 0, 0] s

/-- EXECUTE with any parameter count up to 11 and any bytes, unlisted opcodes among them (R131), is accepted
as it is and served (R150); one with a greater count is refused (O3). What Served leaves of FSEC,
FCNFG, the arrays, the information row, the EERAM function and swap_state is the model's (logs 11, 12, 13,
14, 27, 38). -/
def Obligations.ExecuteIsServed : Prop :=
  ∀ (s : State) (n : Slot) (p : Slots), s.ready = true →
    ServedAs (.execute (BitVec.ofNat 4 n.val) p) n p s

/-- The source's endianness example (R98): programming 0xAABBCCDD leaves FCCOB4..7 = DD,CC,BB,AA at the launch in
an LE build and AA,BB,CC,DD in a BE build, wherever P_LAYOUT puts the address. -/
def Obligations.ProgrammedLongwordFollowsEndianness : Prop :=
  ∀ (s : State) (a : IAddr) (o : NvmOutcome) (ins : List Input), s.ready = true →
    s.cfg.layout.ok = true → makes ins (commandMoves s.cfg.layout.programLongword.n o) →
    ∃ t u, exec (.programLongword a 0xAABBCCDD) s = .next t ∧ runInputs ins t = .next u ∧
      (s.cfg.endian = .le → [u.nvm.cmd[4], u.nvm.cmd[5], u.nvm.cmd[6], u.nvm.cmd[7]]
        = [0xDD, 0xCC, 0xBB, 0xAA]) ∧
      (s.cfg.endian = .be → [u.nvm.cmd[4], u.nvm.cmd[5], u.nvm.cmd[6], u.nvm.cmd[7]]
        = [0xAA, 0xBB, 0xCC, 0xDD])

/-- A request is not accepted, and nothing happens, while SEQ is not IDLE or halted, or from HOST while SWP is
not in S_IDLE (R152, R221). That the request stays with its requester as no change, and that a halted SEQ
accepts nothing, are the model's reading (logs 19, 42). -/
def Obligations.BusyPortAcceptsNothing : Prop :=
  (∀ (s : State) (i : Instr), (∀ addr, i ≠ .swap addr) → (∀ n p, i = .execute n p → n.toNat ≤ 11) →
    (s.seq.state ≠ .idle ∨ s.seq.halted = true ∨ (s.port = .host ∧ s.swp.state ≠ .idle)) →
    exec i s = .next s) ∧
  (∀ (s : State) (addr : Addr), s.seq.state ≠ .idle ∨ s.swp.state ≠ .idle →
    exec (.swap addr) s = .next s)

/-- What acceptance leaves unchanged, for every instruction: every window register, every byte of the
arrays, the controller, the configuration, the history; of SEQ all but the latched request and the
state; of SWP all but the request it waits for, and for SWAP its address and state; a SWAP leaves SEQ
unchanged. -/
def Obligations.AcceptanceFrame : Prop :=
  ∀ (i : Instr) (s t : State), exec i s = .next t →
    (∀ r, readReg t r = readReg s r) ∧
    (∀ x, Memory.read t.nvm.flash x = Memory.read s.nvm.flash x) ∧
    t.win = s.win ∧ t.nvm = s.nvm ∧ t.cfg = s.cfg ∧ t.port = s.port ∧ t.history = s.history ∧
    t.inputs = s.inputs ∧ t.tick = s.tick ∧
    t.seq = { s.seq with n := t.seq.n, buf := t.seq.buf, owner := t.seq.owner, state := t.seq.state } ∧
    t.req = { s.req with call := t.req.call } ∧
    ((∃ addr, i = .swap addr) → t.seq = s.seq ∧
      t.swp = { s.swp with addr := t.swp.addr, state := t.swp.state }) ∧
    ((∀ addr, i ≠ .swap addr) → t.swp = { s.swp with call := t.swp.call })

/-! ## SEQ -/

/-- The access trace of one EXECUTE (R167), whatever command was in flight when it was accepted, with `k1 + 1`
reads in WAIT_READY and `k2 + 1` in POLL; the callback is invoked `k2` times if one is registered; and
the result is that of its own command's completion alone (R176). -/
def Obligations.ExecuteAccessTrace : Prop :=
  ∀ (s : State) (k1 k2 : Nat) (o1 o : NvmOutcome) (ins : List Input),
    s.seq.state = .waitReady → s.seq.halted = false → s.ccif = false → s.nvm.busy = true →
    makes ins
      (List.replicate k1 Move.seq ++ (Move.nvm o1 :: (List.replicate (s.seq.n.val + 4) Move.seq ++
        (pollMoves s.cfg.callback k2 ++ (Move.nvm o :: List.replicate 2 Move.seq))))) →
    ∃ u h, runInputs ins s = .next u ∧ u.history = h ++ s.history ∧
      accesses h = executeTrace s.seq.n s.seq.buf (k1 + 1) (k2 + 1) ∧
      accessCount h = (k1 + 1) + (k2 + 1) + s.seq.n.val + 4 ∧
      h.count .callbackInvoke = (if s.cfg.callback then k2 else 0) ∧
      h.count .callbackReturn = (if s.cfg.callback then k2 else 0) ∧
      .done .seq s.seq.owner (outcomeCode o) ∈ h ∧
      u.seq.state = .idle ∧ u.seq.result = outcomeCode o

/-- SEQ's two waits and SWP's three are unbounded (R153, R154, R158, R165, R230, R231, R347). While CCIF = 0 any
number of WAIT_READY steps are reads of FSTAT and nothing else, without a callback, and the first read
of CCIF = 1 leads to CLEAR_ERR; any number of polls, each with its callback if one is registered, leave
SEQ in POLL. In REREAD mode a wait of SWP reads FCCOB5 for ever and issues nothing where neither
`swp_mode` nor FCCOB5 ends it; in REISSUE mode it issues a report-status command each time `swp_mode`
does not end it; in both it is left, without an access, by a code that ends it. -/
def Obligations.WaitsAreUnbounded : Prop :=
  (∀ (s : State) (k : Nat) (ins : List Input), s.seq.state = .waitReady → s.seq.halted = false →
    s.ccif = false → makes ins (List.replicate k .seq) →
    ∃ u h, runInputs ins s = .next u ∧ u.seq = s.seq ∧ u.nvm = s.nvm ∧
      u.win = { s.win with fstat := u.win.fstat } ∧ namedFlags u.win.fstat = namedFlags s.win.fstat ∧
      u.history = h ++ s.history ∧ accesses h = List.replicate k (.read .fstat) ∧ h.length = k) ∧
  (∀ (s : State) (rsv : BitVec 3), s.seq.state = .waitReady → s.seq.halted = false → s.ccif = true →
    ∃ u e, stepInput { rsv := rsv, move := .seq } s = .next u ∧
      u.seq = { s.seq with state := .clearErr } ∧ u.history = e :: s.history ∧
      accesses [e] = [.read .fstat]) ∧
  (∀ (s : State) (k : Nat) (ins : List Input), s.seq.state = .poll → s.seq.halted = false →
    s.ccif = false → makes ins (pollMoves s.cfg.callback k) →
    ∃ u h, runInputs ins s = .next u ∧ u.seq = s.seq ∧ u.nvm = s.nvm ∧
      u.win = { s.win with fstat := u.win.fstat } ∧ namedFlags u.win.fstat = namedFlags s.win.fstat ∧
      u.history = h ++ s.history ∧ accesses h = List.replicate k (.read .fstat) ∧
      h.count .callbackInvoke = (if s.cfg.callback then k else 0)) ∧
  (∀ (s : State) (k : Nat) (ins : List Input), s.cfg.waitMode = .rereadFccob5 →
    s.swp.halted = false → keepsWaiting s.cfg.swapState s.swp.state s.swp.mode →
    keepsWaiting s.cfg.swapState s.swp.state (s.win.fccob.get 5) →
    makes ins (List.replicate k .swp) →
    ∃ u h, runInputs ins s = .next u ∧ u.swp = { s.swp with mode := u.swp.mode } ∧
      u.seq = s.seq ∧ u.nvm = s.nvm ∧ u.win.fccob = s.win.fccob ∧ u.history = h ++ s.history ∧
      accesses h = List.replicate k (.read (.fccob 5)) ∧ h.length = k) ∧
  (∀ (s : State) (rsv : BitVec 3), s.cfg.waitMode = .reissueReport → s.swp.halted = false →
    keepsWaiting s.cfg.swapState s.swp.state s.swp.mode → s.swp.call = .none →
    stepInput { rsv := rsv, move := .swp } s
      = exec (.pFlashSwapReportStatus (indicatorAddr s.cfg s.swp.addr)) { s with
          win := { s.win with fstat := floatReserved rsv s.win.fstat }
          port := .swp }) ∧
  (∀ (s : State) (rsv : BitVec 3), s.swp.halted = false →
    s.swp.state ∈ [SwpState.waitUninit, .waitReady, .waitComp] →
    ¬keepsWaiting s.cfg.swapState s.swp.state s.swp.mode →
    (s.cfg.waitMode = .reissueReport → s.swp.call = .none) →
    ∃ u, stepInput { rsv := rsv, move := .swp } s = .next u ∧ u.swp.state = .dispatch ∧
      u.swp.mode = s.swp.mode ∧ u.seq = s.seq ∧ u.history = s.history)

/-- SEQ leaves WAIT_READY, POLL and CB_WAIT only by its reads of FSTAT and the callback's return (R166). -/
def Obligations.WaitsHaveNoCancellation : Prop :=
  ∀ (i : Input) (s t : State), stepInput i s = .next t → t.seq.state ≠ s.seq.state →
    (s.seq.state = .waitReady → i.move = .seq ∧ s.ccif = true ∧ t.seq.state = .clearErr) ∧
    (s.seq.state = .poll → i.move = .seq ∧
      ((s.ccif = true ∧ t.seq.state = .decode) ∨
       (s.ccif = false ∧ s.cfg.callback = true ∧ t.seq.state = .cbWait))) ∧
    (s.seq.state = .cbWait → i.move = .cb .ret ∧ t.seq.state = .poll)

/-- The error decoder (R160): ACCERR first, then FPVIOL, then MGSTAT0; no other bit matters. -/
def Obligations.DecoderPriority : Prop :=
  ∀ v : Byte,
    decodeStatus v = (if v.getLsbD 5 then 0x0004 else if v.getLsbD 4 then 0x0008
      else if v.getLsbD 0 then 0x0010 else 0x0000) ∧
    ∀ w : Byte, w &&& 0x31 = v &&& 0x31 → decodeStatus w = decodeStatus v

/-- If ACCERR and FPVIOL are both set, the DECODE step reports AccessError (R175). -/
def Obligations.AccessErrorBeatsProtection : Prop :=
  ∀ (s : State) (rsv : BitVec 3), s.seq.state = .decode → s.seq.halted = false →
    accerr s.win.fstat = true → fpviol s.win.fstat = true →
    ∃ u, stepInput { rsv := rsv, move := .seq } s = .next u ∧ u.seq.state = .idle ∧
      u.seq.result = 0x0004 ∧ .done .seq s.seq.owner 0x0004 ∈ u.history

/-- Every step that completes an EXECUTE reports one of the four codes of R174, and each of them is reported
from some FSTAT. -/
def Obligations.ExecuteReportsFourCodes : Prop :=
  (∀ (i : Input) (s t : State) (o : Owner) (r : Code), stepInput i s = .next t →
    .done .seq o r ∈ t.history → .done .seq o r ∈ s.history ∨
      (r = t.seq.result ∧ r ∈ ([0x0000, 0x0004, 0x0008, 0x0010] : List Code))) ∧
  (∀ r ∈ ([0x0000, 0x0004, 0x0008, 0x0010] : List Code), ∃ v, decodeStatus v = r)

/-! ## FSTAT, FCCOB and the controller -/

/-- A write of FSTAT (R33), and the launch (R169), bit by bit, with everything it leaves unchanged. That a launch
write with CCIF = 0, ACCERR or FPVIOL is ignored is the model's choice (log 16): R33 lets a model fault. -/
def Obligations.FstatWriteSemantics : Prop :=
  ∀ (who : Agent) (v : Byte) (s : State),
    let f := s.win.fstat
    let t := writeFstat who v s
    let go := v.getLsbD 7 && f.getLsbD 7 && !(f.getLsbD 5 && !v.getLsbD 5) &&
      !(f.getLsbD 4 && !v.getLsbD 4)
    t.win.fstat.getLsbD 7 = (f.getLsbD 7 && !go) ∧
    t.win.fstat.getLsbD 6 = (f.getLsbD 6 && !v.getLsbD 6) ∧
    t.win.fstat.getLsbD 5 = (f.getLsbD 5 && !v.getLsbD 5) ∧
    t.win.fstat.getLsbD 4 = (f.getLsbD 4 && !v.getLsbD 4) ∧
    t.win.fstat.getLsbD 3 = f.getLsbD 3 ∧ t.win.fstat.getLsbD 2 = f.getLsbD 2 ∧
    t.win.fstat.getLsbD 1 = f.getLsbD 1 ∧
    t.win.fstat.getLsbD 0 = (f.getLsbD 0 && !go) ∧
    t.nvm = (if go then { s.nvm with busy := true, cmd := s.win.fccob } else s.nvm) ∧
    t = { s with
      win := { s.win with fstat := t.win.fstat }
      nvm := t.nvm
      history := .regWrite who .fstat (regAddr s.cfg .fstat) v :: s.history }

/-- A write of FCCOBi (R39): stored while CCIF = 1, ignored while CCIF = 0, where HOST's is a fault (log 15). -/
def Obligations.FccobWriteSemantics : Prop :=
  ∀ (who : Agent) (i : Slot) (v : Byte) (s : State),
    let t := writeFccob who i v s
    (∀ j, t.win.fccob.get j = if s.ccif = true ∧ j = i then v else s.win.fccob.get j) ∧
    t = { s with
      win := { s.win with fccob := t.win.fccob }
      history := .regWrite who (.fccob i) (regAddr s.cfg (.fccob i)) v :: s.history } ∧
    (s.serving = false → s.ccif = false → hostWrite (.fccob i) v s = .fault .fccobWriteInFlight)

/-- Completion (R170): the return bytes, the flags bit by bit, the controller idle, the registers no completion
touches, and what is abstract in the rule: the drawn value where the command may change it, else the old
one; and which commands may change FSEC (R203, R207), the swap state (R240), the information row (R201,
R205) and the EERAM function (R206) (the model's: logs 11, 12, 13, 14, 38). -/
def Obligations.CompletionEffects : Prop :=
  ∀ (o : NvmOutcome) (s : State), s.nvm.busy = true →
    let f := s.win.fstat
    let t := nvmStep o s
    let cmd := s.nvm.cmd
    (∀ i, t.win.fccob.get i = (o.ret.get i).getD (s.win.fccob.get i)) ∧
    t.win.fstat.getLsbD 7 = true ∧
    t.win.fstat.getLsbD 6 = (f.getLsbD 6 || o.rdcolerr) ∧
    t.win.fstat.getLsbD 5 = (f.getLsbD 5 || o.accerr) ∧
    t.win.fstat.getLsbD 4 = (f.getLsbD 4 || o.fpviol) ∧
    t.win.fstat.getLsbD 3 = f.getLsbD 3 ∧ t.win.fstat.getLsbD 2 = f.getLsbD 2 ∧
    t.win.fstat.getLsbD 1 = f.getLsbD 1 ∧
    t.win.fstat.getLsbD 0 = o.mgstat0 ∧
    t.nvm.busy = false ∧ t.nvm.cmd = cmd ∧ t.nvm.protMode = s.nvm.protMode ∧
    t.win.fprot = s.win.fprot ∧ t.win.fdprot = s.win.fdprot ∧ t.win.feprot = s.win.feprot ∧
    t.win.fopt = s.win.fopt ∧
    t.win.fsec = (if mayChangeFsec s.cfg cmd then o.fsec.getD s.win.fsec else s.win.fsec) ∧
    t.win.fcnfg = o.fcnfg.getD s.win.fcnfg ∧
    t.nvm.swapState
      = (if mayChangeSwap s.cfg cmd then o.swapState.getD s.nvm.swapState else s.nvm.swapState) ∧
    t.nvm.eeram = (if mayChangeEeram s.cfg cmd then o.eeram.getD s.nvm.eeram else s.nvm.eeram) ∧
    t.nvm.ifr = (if mayChangeIfr s.cfg cmd then Memory.writeCells (fun _ => true) o.ifr s.nvm.ifr
      else s.nvm.ifr) ∧
    t.nvm.flash = Memory.writeCells (mayChange s.cfg cmd) o.flash s.nvm.flash ∧
    t = { s with win := t.win, nvm := t.nvm } ∧
    (let code := fieldByte s.cfg.layout.pFlashSwap cmd 3
     let c := s.cfg.swapCode
     let free := cmd[0] ∉ opcodes.map opcodeByte ∨
       (cmd[0] = 0x46 ∧ code ∉ [c.report, c.setInd, c.setPrep, c.setComp])
     (mayChangeFsec s.cfg cmd = true ↔ cmd[0] ∈ ([0x45, 0x49] : List Byte) ∨ free) ∧
     (mayChangeSwap s.cfg cmd = true ↔ cmd[0] ∈ ([0x46, 0x09] : List Byte) ∨ free) ∧
     (mayChangeIfr s.cfg cmd = true ↔ cmd[0] ∈ ([0x43, 0x80] : List Byte) ∨ free) ∧
     (mayChangeEeram s.cfg cmd = true ↔ cmd[0] = 0x81 ∨ free))

/-- The bytes of the arrays a completion may change, per command (the array effects of R190-R207, with 0x43 of
R201 and 0x80 of R205 among those that change none; the footprints beyond the rules' words are the model's,
log 11, and the unit of a section is log 27). The address and count are those the command carries in its
row of P_LAYOUT. A sector or block is the aligned one that holds the address. Inside its footprint, and
anywhere for 0x44, 0x46, 0x49 and the unlisted opcodes, a drawn byte lands: the last one drawn for an
address is what it then reads as, in a memory of canonical form. -/
def Obligations.CompletionArrayFootprint : Prop :=
  ∀ (o : NvmOutcome) (s : State) (x : Nat), s.nvm.busy = true →
    let cmd := s.nvm.cmd
    let a (op : Opcode) : Nat := (addrIn s.cfg op cmd).toNat
    let same := Memory.read (nvmStep o s).nvm.flash x = Memory.read s.nvm.flash x
    let sameUnit (a psize dsize : Nat) : Prop :=
      (a < 0x800000 ∧ x / psize = a / psize) ∨
        (0x800000 ≤ a ∧ 0x800000 ≤ x ∧ (x - 0x800000) / dsize = (a - 0x800000) / dsize)
    (cmd[0] ∈ ([0x00, 0x01, 0x02, 0x03, 0x40, 0x41, 0x43, 0x45, 0x80, 0x81] : List Byte) → same) ∧
    (cmd[0] = 0x06 → ¬(a .programLongword ≤ x ∧ x < a .programLongword + 4) → same) ∧
    (cmd[0] = 0x07 → ¬(a .programPhrase ≤ x ∧ x < a .programPhrase + 8) → same) ∧
    (cmd[0] = 0x0B → ¬(a .programSection ≤ x ∧ x < a .programSection
      + (countIn s.cfg .programSection cmd).toNat * s.cfg.sectionUnit.toNat) → same) ∧
    (cmd[0] = 0x09 → 0 < s.cfg.psectorSize.toNat → 0 < s.cfg.dsectorSize.toNat →
      ¬sameUnit (a .eraseSector) s.cfg.psectorSize.toNat s.cfg.dsectorSize.toNat → same) ∧
    (cmd[0] = 0x08 → 0 < s.cfg.pblockSize.toNat → 0 < s.cfg.dblockSize.toNat →
      ¬sameUnit (a .eraseBlock) s.cfg.pblockSize.toNat s.cfg.dblockSize.toNat → same) ∧
    ∀ (b : Byte) (pre post : List Host.Cell), Memory.wf s.nvm.flash = true → x < 2 ^ 24 →
      o.flash = pre ++ (x, b) :: post → (∀ q ∈ post, q.1 ≠ x) →
      let lands := Memory.read (nvmStep o s).nvm.flash x = b
      (cmd[0] = 0x06 → a .programLongword ≤ x → x < a .programLongword + 4 → lands) ∧
      (cmd[0] = 0x07 → a .programPhrase ≤ x → x < a .programPhrase + 8 → lands) ∧
      (cmd[0] = 0x0B → a .programSection ≤ x → x < a .programSection
        + (countIn s.cfg .programSection cmd).toNat * s.cfg.sectionUnit.toNat → lands) ∧
      (cmd[0] = 0x09 → 0 < s.cfg.psectorSize.toNat → 0 < s.cfg.dsectorSize.toNat →
        sameUnit (a .eraseSector) s.cfg.psectorSize.toNat s.cfg.dsectorSize.toNat → lands) ∧
      (cmd[0] = 0x08 → 0 < s.cfg.pblockSize.toNat → 0 < s.cfg.dblockSize.toNat →
        sameUnit (a .eraseBlock) s.cfg.pblockSize.toNat s.cfg.dblockSize.toNat → lands) ∧
      (cmd[0] ∈ ([0x44, 0x46, 0x49] : List Byte) ∨ cmd[0] ∉ opcodes.map opcodeByte → lands)

/-- While idle the controller takes no step (R168). -/
def Obligations.IdleControllerTakesNoStep : Prop :=
  ∀ (o : NvmOutcome) (rsv : BitVec 3) (s : State), s.nvm.busy = false →
    stepInput { rsv := rsv, move := .nvm o } s
      = .next { s with win := { s.win with fstat := floatReserved rsv s.win.fstat } }

/-- With no completion and no reset, a step changes a named flag of FSTAT or an FCCOB slot only by a register
write of that step (R173). -/
def Obligations.FstatAndFccobChangeByWrites : Prop :=
  ∀ (i : Input) (s t : State), stepInput i s = .next t →
    (∀ l, i.move ≠ .reset l) → (s.nvm.busy = false ∨ ∀ o, i.move ≠ .nvm o) →
    ∃ h, t.history = h ++ s.history ∧
      (namedFlags t.win.fstat ≠ namedFlags s.win.fstat →
        ∃ v, Access.write .fstat v ∈ accesses h) ∧
      (∀ j, t.win.fccob.get j ≠ s.win.fccob.get j →
        Access.write (.fccob j) (t.win.fccob.get j) ∈ accesses h)

/-- Every step makes at most one register access (R14); a step of SEQ only to FSTAT, or to a slot of FCCOB up to
`seq_n`; a step of SWP only a read of FCCOB5 (R91). The premise is part of SEQ's invariant. -/
def Obligations.AccessDiscipline : Prop :=
  ∀ (i : Input) (s t : State), (s.seq.state = .load → s.seq.k.val ≤ s.seq.n.val) →
    stepInput i s = .next t →
    ∃ h, t.history = h ++ s.history ∧ accessCount h ≤ 1 ∧
      (i.move = .seq → ∀ x ∈ accesses h,
        x = .read .fstat ∨ x = .write .fstat 0x70 ∨ x = .write .fstat 0x80 ∨
        ∃ j v, x = .write (.fccob j) v ∧ j.val ≤ s.seq.n.val) ∧
      (i.move = .swp → ∀ x ∈ accesses h, x = .read (.fccob 5)) ∧
      (i.move ≠ .seq → i.move ≠ .swp → (∀ m, i.move ≠ .host m) → accesses h = [])

/-! ## Protection and the hidden state -/

/-- A HOST write to each protection register (R41): a fault while CCIF = 0; else an AND in normal mode and a
store in special mode. While a request is served and CCIF = 1 it is ConcurrentAccess (R260; log 17). -/
def Obligations.ProtectionWriteSemantics : Prop :=
  ∀ (s : State) (r : Reg) (v : Byte),
    (r = .fdprot ∨ r = .feprot ∨ ∃ i, r = .fprot i) →
    (s.ccif = false → hostWrite r v s = .fault .protWriteInFlight) ∧
    (s.ccif = true → s.serving = true → hostWrite r v s = .fault .concurrentAccess) ∧
    (s.ccif = true → s.serving = false →
      ∃ t, hostWrite r v s = .next t ∧
        readReg t r = (match s.nvm.protMode with
          | .normal => readReg s r &&& v
          | .special => v) ∧
        (∀ q, q ≠ r → readReg t q = readReg s q) ∧
        t = { s with win := t.win, history := .regWrite .host r (regAddr s.cfg r) v :: s.history })

/-- In normal mode no step but a reset sets a bit of a protection register: protection is only added (R41,
R279). -/
def Obligations.NormalModeOnlyAddsProtection : Prop :=
  ∀ (i : Input) (s t : State), (∀ l, i.move ≠ .reset l) → s.nvm.protMode = .normal →
    stepInput i s = .next t →
    (∀ j, t.win.fprot.get j &&& s.win.fprot.get j = t.win.fprot.get j) ∧
    t.win.fdprot &&& s.win.fdprot = t.win.fdprot ∧ t.win.feprot &&& s.win.feprot = t.win.feprot

/-- Without a reset: `prot_mode` (R62) and FOPT (R38) never change; FSEC (R37), the arrays and the swap state
change only at a completion (R170), as do the information row and the EERAM function, which the model adds
(log 38); FCNFG only at a completion (log 14) or by a HOST write of it (log 52), which are the model's
choices, since R36 names no writer but NVM; the configuration only in FlashInit (R65, R282), and once it
has, never again in the run (R8, R346; log 48). -/
def Obligations.OnlyTheirWritersChangeHiddenState : Prop :=
  ∀ (i : Input) (s t : State), (∀ l, i.move ≠ .reset l) → stepInput i s = .next t →
    t.nvm.protMode = s.nvm.protMode ∧ t.win.fopt = s.win.fopt ∧
    ((s.nvm.busy = false ∨ ∀ o, i.move ≠ .nvm o) →
      t.win.fsec = s.win.fsec ∧ t.nvm.flash = s.nvm.flash ∧
      t.nvm.ifr = s.nvm.ifr ∧ t.nvm.eeram = s.nvm.eeram ∧ t.nvm.swapState = s.nvm.swapState ∧
      (t.win.fcnfg = s.win.fcnfg ∨
        ∃ v, t.history = .regWrite .host .fcnfg (regAddr s.cfg .fcnfg) v :: s.history ∨
          ∃ e, t.history = e :: .regWrite .host .fcnfg (regAddr s.cfg .fcnfg) v :: s.history)) ∧
    (s.req.initDone = true → t.req.initDone = true ∧ t.cfg = s.cfg) ∧
    (t.cfg ≠ s.cfg → i.move = .host .go ∧ t.req.initDone = true ∧
      (s.req.ctl = .initPoll ∨ ∃ c a todo got, s.req.ctl = .readBack .init c a todo got) ∧
      t.cfg = { s.cfg with dflashSize := t.cfg.dflashSize, eeeSize := t.cfg.eeeSize })

/-! ## Misuse, refusals, reset, debug -/

/-- Misuse faults: a HOST write to FSTAT or FCCOB while SEQ is not IDLE (R164) or SWP is busy (log 17), and any
access or request of the callback (R163, 93 I10; log 33), is ConcurrentAccess; so is, while SEQ or SWP is
busy, a read of the window by other code of the surrounding system, by register or by address, and a
write of FCNFG (R307, 93 I10; log 18). A write of a protection register is O29's. A HOST write to FSEC
(R37) or FOPT (R38) is a fault of its own in every state. A write of FCNFG at any other time is none
(R93): it is performed, and what FCNFG then holds is free (the model's, log 52). -/
def Obligations.MisuseFaults : Prop :=
  ∀ (s : State) (rsv : BitVec 3) (r : Reg) (v : Byte) (q : Request),
    ((r = .fstat ∨ ∃ i, r = .fccob i) → s.seq.state ≠ .idle ∨ s.swp.state ≠ .idle →
      stepInput { rsv := rsv, move := .host (.write r v) } s = .fault .concurrentAccess) ∧
    (s.seq.state = .cbWait →
      stepInput { rsv := rsv, move := .cb (.access r) } s = .fault .concurrentAccess ∧
      stepInput { rsv := rsv, move := .cb (.arrayRead (regAddr s.cfg r)) } s
        = .fault .concurrentAccess ∧
      stepInput { rsv := rsv, move := .cb (.request q) } s = .fault .concurrentAccess) ∧
    (s.seq.state ≠ .idle ∨ s.swp.state ≠ .idle →
      stepInput { rsv := rsv, move := .host (.read r) } s = .fault .concurrentAccess ∧
      stepInput { rsv := rsv, move := .host (.arrayRead (regAddr s.cfg r)) } s
        = .fault .concurrentAccess ∧
      stepInput { rsv := rsv, move := .host (.write .fcnfg v) } s = .fault .concurrentAccess) ∧
    ((r = .fsec ∨ r = .fopt) →
      stepInput { rsv := rsv, move := .host (.write r v) } s = .fault .readOnlyRegister) ∧
    (s.seq.state = .idle → s.swp.state = .idle →
      ∃ t, stepInput { rsv := rsv, move := .host (.write .fcnfg v) } s = .next t ∧
        t = { s with
          win := { s.win with fstat := floatReserved rsv s.win.fstat, fcnfg := t.win.fcnfg }
          tick := t.tick
          history := .regWrite .host .fcnfg (regAddr s.cfg .fcnfg) v :: s.history })

/-- A read of an array byte by HOST, or by the callback while it runs (R106, R344): a fault while a command is
in flight on its block; else the byte, with nothing changed but the history. The blocks are those of
P_PBLOCK_SIZE and P_DBLOCK_SIZE (R9). Which of them a command is on is the model's (log 34): the blocks of the
bytes it works on, the sector or block of its address among them (an erase is read under R11's bounds, with
P-Flash a whole number of units); no block for SecurityBypass and SetEERAM; D-Flash for ProgramPartition; every
block for the others, the unlisted opcodes among them; and no byte that a completion may change is off it. The
section unit is a parameter (log 27). At a register's address a HOST read is the read of that register (R13),
also where the window overlaps a flash range (the model's, log 49); at any other address of a flash range it is the
flash byte's, also over a reserved offset of the window or an EERAM address (the model's, log 63). -/
def Obligations.ArrayReadsFaultInFlight : Prop :=
  (∀ (s : State) (addr : Addr) (x : Nat), (∀ r, regAddr s.cfg r ≠ addr) →
    translate s.cfg .progErase addr.toNat 1 = some x →
    (s.nvm.busy = true → commandOnBlock s.cfg s.nvm.cmd x = true →
      hostMemRead addr s = .fault .arrayBusy ∧
      (s.seq.state = .cbWait → cbStep (.arrayRead addr) s = .fault .arrayBusy)) ∧
    (s.nvm.busy = false ∨ commandOnBlock s.cfg s.nvm.cmd x = false →
      let t := { s with history := .arrayRead addr (Memory.read s.nvm.flash x) :: s.history }
      hostMemRead addr s = .next t ∧
      (s.seq.state = .cbWait → cbStep (.arrayRead addr) s = .next t))) ∧
  (∀ (s : State) (r : Reg), s.cfg.wf = true → s.serving = false →
    hostMemRead (regAddr s.cfg r) s = .next
      { s with history := .regRead .host r (regAddr s.cfg r) (readReg s r) :: s.history }) ∧
  (∀ (cfg : Config) (cmd : Slots) (x : Nat), mayChange cfg cmd x = true →
    commandOnBlock cfg cmd x = true) ∧
  (∀ (cfg : Config) (cmd : Slots) (x : Nat),
    let a (op : Opcode) : Nat := (addrIn cfg op cmd).toNat
    let bytes (op : Opcode) : Nat := (countIn cfg op cmd).toNat * cfg.sectionUnit.toNat
    let sameUnit (psize dsize : Addr) (y z : Nat) : Prop :=
      (y < 0x800000 ∧ z < 0x800000 ∧ y / psize.toNat = z / psize.toNat) ∨
        (0x800000 ≤ y ∧ 0x800000 ≤ z ∧
          (y - 0x800000) / dsize.toNat = (z - 0x800000) / dsize.toNat)
    let sameBlock : Nat → Nat → Prop := sameUnit cfg.pblockSize cfg.dblockSize
    let whole (psize dsize : Addr) : Prop :=
      0 < psize.toNat ∧ 0 < dsize.toNat ∧ 0x800000 % psize.toNat = 0
    let on : Prop := commandOnBlock cfg cmd x = true
    let onBytes (f n : Nat) : Prop := on ↔ ∃ y, f ≤ y ∧ y < f + max n 1 ∧ sameBlock y x
    (cmd[0] = 0x02 → onBytes (a .programCheck) 4) ∧
    (cmd[0] = 0x06 → onBytes (a .programLongword) 4) ∧
    (cmd[0] = 0x07 → onBytes (a .programPhrase) 8) ∧
    (cmd[0] = 0x01 → onBytes (a .verifySection) (bytes .verifySection)) ∧
    (cmd[0] = 0x0B → onBytes (a .programSection) (bytes .programSection)) ∧
    (cmd[0] = 0x09 → whole cfg.psectorSize cfg.dsectorSize →
      (on ↔ ∃ y, sameUnit cfg.psectorSize cfg.dsectorSize (a .eraseSector) y ∧ sameBlock y x)) ∧
    (whole cfg.pblockSize cfg.dblockSize →
      (cmd[0] = 0x00 → (on ↔ sameBlock (a .verifyBlock) x)) ∧
      (cmd[0] = 0x08 → (on ↔ sameBlock (a .eraseBlock) x))) ∧
    (cmd[0] = 0x80 → (on ↔ 0x800000 ≤ x)) ∧
    (cmd[0] ∈ ([0x45, 0x81] : List Byte) → ¬on) ∧
    (cmd[0] ∉ ([0x00, 0x01, 0x02, 0x06, 0x07, 0x08, 0x09, 0x0B, 0x45, 0x80, 0x81] : List Byte) → on))

/-- EraseSuspend, EraseResume and EEEWrite are refused by name (R287), and so is a reset in mid-operation (R332). A
low-power entry in mid-operation is refused as 93 I22 says, since R325 gives it no outcome; what counts as
an operation there is the model's reading (log 32). -/
def Obligations.UndescribedRequestsAreRefused : Prop :=
  ∀ (s : State) (rsv : BitVec 3) (cap : CapDraw) (l : Launch),
    (s.req.ctl = .idle →
      stepInput { rsv := rsv, move := .host (.call .eraseSuspend cap) } s
        = .refused .refuseEraseSuspend ∧
      stepInput { rsv := rsv, move := .host (.call .eraseResume cap) } s
        = .refused .refuseEraseResume ∧
      stepInput { rsv := rsv, move := .host (.call .eeeWrite cap) } s = .refused .refuseEEEWrite) ∧
    (s.seq.state ≠ .idle ∨ s.swp.state ≠ .idle ∨ s.nvm.busy = true →
      stepInput { rsv := rsv, move := .reset l } s = .refused .refuseResetInFlight ∧
      stepInput { rsv := rsv, move := .lowPower } s = .refused .refuseLowPower)

/-- A reset of a quiet block (R330, R331): SEQ IDLE, SWP S_IDLE, nothing halted or in flight but as FSTAT[7]
says, the registers at the launch values. The arrays stay (log 31), and a halt ends (log 54). -/
def Obligations.ResetLeavesLaunchState : Prop :=
  ∀ (s : State) (rsv : BitVec 3) (l : Launch), s.seq.state = .idle → s.swp.state = .idle →
    s.nvm.busy = false →
    ∃ u, stepInput { rsv := rsv, move := .reset l } s = .next u ∧
      u.seq.state = .idle ∧ u.swp.state = .idle ∧ u.seq.halted = false ∧ u.swp.halted = false ∧
      u.swp.call = .none ∧ u.req.call = .none ∧ u.req.ctl = .idle ∧
      u.win = { fstat := l.fstat, fcnfg := l.fcnfg, fsec := l.fsec, fopt := l.fopt, fccob := l.fccob,
                fprot := l.fprot, fdprot := l.fdprot, feprot := l.feprot } ∧
      u.nvm.busy = !l.fstat.getLsbD 7 ∧ u.nvm.protMode = l.protMode ∧
      u.nvm.swapState = l.swapState ∧ u.nvm.flash = s.nvm.flash ∧ u.cfg = s.cfg

/-- Debug breaks (R320): with P_DEBUG_ENABLE each operation ends with `Done` and then DebugBreak, and its FSM
halts; a halted FSM takes no step; DebugResume lets it go on; without P_DEBUG_ENABLE there is none. That a
halted FSM accepts no request (log 42), and that a DebugResume names one FSM and frees it alone, so that
the other stays as it is (log 59), are the model's choices. -/
def Obligations.DebugBreakHaltsTheFsm : Prop :=
  (∀ s : State, s.cfg.debugEnable = true → s.seq.state = .decode → s.seq.halted = false →
    ∃ rest, (seqStep s).history = .debugBreak .seq ::
        .done .seq s.seq.owner (decodeStatus s.win.fstat) :: rest ∧ (seqStep s).seq.halted = true) ∧
  (∀ (s : State) (v : Code), s.cfg.debugEnable = true →
    (swpFinish v s).history = .debugBreak .swp :: .done .swp .host v :: s.history ∧
      (swpFinish v s).swp.halted = true) ∧
  (∀ (i : Input) (s t : State), stepInput i s = .next t → (∀ l, i.move ≠ .reset l) →
    (s.seq.halted = true → i.move ≠ .debugResume .seq → s.seq.state = .idle → t.seq = s.seq) ∧
    (s.swp.halted = true → i.move ≠ .debugResume .swp → s.swp.state = .idle →
      t.swp = { s.swp with call := t.swp.call })) ∧
  (∀ s : State, (resumeFsm .seq s).seq.halted = false ∧ (resumeFsm .swp s).swp.halted = false) ∧
  (∀ (i : Input) (s t : State) (f : Fsm), s.cfg.debugEnable = false → stepInput i s = .next t →
    .debugBreak f ∈ t.history → .debugBreak f ∈ s.history)

/-! ## Invariants -/

/-- `FSTAT[7] = not nvm_busy` is kept by every step (R32, R60). -/
def Obligations.StepKeepsCcifInv : Prop :=
  ∀ s t : State, CcifInv s → step s = .next t → CcifInv t

/-- SEQ's protocol order is kept by every step: a launch finds CCIF = 1, clear error flags and the request's
bytes in FCCOB; the command in flight or completed is the request (R153-R159, R342). -/
def Obligations.StepKeepsSeqInv : Prop :=
  ∀ s t : State, CcifInv s → SeqInv s → step s = .next t → SeqInv t

/-- Every step keeps the canonical form of the memories. -/
def Obligations.StepKeepsMemoryInv : Prop :=
  ∀ s t : State, MemoryInv s → step s = .next t → MemoryInv t

/-- SWP's states stay in their phases (R229). When `swp_phase` is written is the model's choice (log 60). -/
def Obligations.StepKeepsSwpInv : Prop :=
  ∀ s t : State, SwpInv s → step s = .next t → SwpInv t

/-- The result codes held and reported stay those of R174, R220 and R302. -/
def Obligations.StepKeepsCodesInv : Prop :=
  ∀ s t : State, CodesInv s → step s = .next t → CodesInv t

/-- The state after reset meets every invariant; SEQ is IDLE, SWP is S_IDLE and nothing is in flight.
FSTAT = 0x80 and `nvm_busy` = false at reset are the model's (log 4). -/
def Obligations.ResetMeetsInvariants : Prop :=
  CcifInv State.reset ∧ SeqInv State.reset ∧ MemoryInv State.reset ∧ SwpInv State.reset ∧
    CodesInv State.reset ∧ State.reset.seq.state = .idle ∧ State.reset.swp.state = .idle ∧
    State.reset.nvm.busy = false

/-! ## SWP -/

/-- SWAP's validation (R222): outside bank 0 or inside the flash-configuration-field sub-range it ends with
RangeError and no register access; inside bank 0 and outside the sub-range, aligned or not, it goes on. That
the passed check leaves phase 0 is the model's (log 60). -/
def Obligations.SwapValidatesItsAddress : Prop :=
  ∀ (s : State) (addr : Addr) (rsv : BitVec 3), swapOpen s = true →
    let base := s.cfg.pflashBase.toNat
    let ok := base ≤ addr.toNat ∧ addr.toNat < base + s.cfg.pflashSize.toNat / 2 ∧
      ¬(base + s.cfg.fcfLo.toNat ≤ addr.toNat ∧ addr.toNat < base + s.cfg.fcfHi.toNat)
    ∃ t u, exec (.swap addr) s = .next t ∧ stepInput { rsv := rsv, move := .swp } t = .next u ∧
      u.swp.addr = addr ∧ u.seq = s.seq ∧ u.nvm = s.nvm ∧
      u.win = { s.win with fstat := floatReserved rsv s.win.fstat } ∧
      (¬ok → u.swp.state = .idle ∧ u.swp.result = 0x0002 ∧ u.req.call = .done 0x0002 ∧
        ∃ h, u.history = h ++ s.history ∧ .done .swp .host 0x0002 ∈ h ∧ accesses h = []) ∧
      (ok → u.swp.state = .query ∧ u.swp.phase = 0 ∧ u.history = s.history)

/-- The source's swap scenario (R241): from Uninitialized, under the nominal controller (R240: each outcome is
one its table allows for the command completed and the swap state before it) and a controller that
completes every command, one SWAP ends with Success and swap state Complete, having loaded exactly
report, set-indicator, set-in-prepare, one erase of the indicator's sector in the other bank, and
set-in-complete. -/
def Obligations.SwapDrivesToComplete : Prop :=
  ∀ (s : State) (addr : Addr) (oReport oInd oPrep oErase oComp : NvmOutcome) (ins : List Input),
    let c := s.cfg.swapCode
    let ia := indicatorAddr s.cfg addr
    let e := eraseAddr s.cfg addr
    let control (code : Byte) : List (Slot × Byte) :=
      loadsOf [0x46, ia.extractLsb' 16 8, ia.extractLsb' 8 8, ia.extractLsb' 0 8, code]
    let allows (k : CommandObject) (st : SwapState) (o : NvmOutcome) : Prop :=
      nominal s.cfg ia k.p st o = true
    swapOpen s = true → s.seq.halted = false → s.ccif = true → s.nvm.busy = false →
    s.cfg.wf = true → s.cfg.debugEnable = false → swapAddrOk s.cfg addr = true →
    s.nvm.swapState = .uninitialized →
    allows (objPFlashSwap s.cfg ia c.report) .uninitialized oReport →
    allows (objPFlashSwap s.cfg ia c.setInd) .uninitialized oInd →
    allows (objPFlashSwap s.cfg ia c.setPrep) .ready oPrep →
    allows (objEraseSector s.cfg e) .update oErase →
    allows (objPFlashSwap s.cfg ia c.setComp) .updateErased oComp →
    makes ins (swapMoves oReport oInd oPrep oErase oComp) →
    ∃ t u h, exec (.swap addr) s = .next t ∧ runInputs ins t = .next u ∧
      u.swp.state = .idle ∧ u.swp.result = 0x0000 ∧ u.swp.addr = addr ∧
      u.swp.mode = s.cfg.swapState.complete ∧
      u.req.call = .done 0x0000 ∧ u.seq.state = .idle ∧
      u.nvm.swapState = .complete ∧ u.history = h ++ s.history ∧
      .done .swp .host 0x0000 ∈ h ∧
      loads h = List.flatten [control c.report, control c.setInd, control c.setPrep,
        loadsOf [0x09, e.extractLsb' 16 8, e.extractLsb' 8 8, e.extractLsb' 0 8], control c.setComp]

/-- A swap whose report shows Complete, or a code that is none of the four a phase acts on, issues only the
report-status command and succeeds (R220, R229). -/
def Obligations.SwapWithNothingToDoSucceeds : Prop :=
  ∀ (s : State) (addr : Addr) (m : Byte) (o : NvmOutcome) (ins : List Input),
    let st := s.cfg.swapState
    let ia := indicatorAddr s.cfg addr
    swapOpen s = true → s.seq.halted = false → s.ccif = true → s.nvm.busy = false →
    s.cfg.debugEnable = false → s.cfg.layout.ok = true → swapAddrOk s.cfg addr = true →
    m ∉ [st.uninit, st.ready, st.update, st.updateErased] →
    outcomeCode o = 0x0000 → o.ret.get 5 = some m →
    makes ins (List.flatten [[Move.swp], swapCommandMoves 4 o, [Move.swp, Move.swp]]) →
    ∃ t u h, exec (.swap addr) s = .next t ∧ runInputs ins t = .next u ∧
      u.swp.state = .idle ∧ u.swp.result = 0x0000 ∧ u.swp.mode = m ∧ u.req.call = .done 0x0000 ∧
      u.history = h ++ s.history ∧
      loads h = loadsOf [0x46, ia.extractLsb' 16 8, ia.extractLsb' 8 8, ia.extractLsb' 0 8,
        s.cfg.swapCode.report]

/-- A nonzero result of any sub-command ends the SWAP with it: no rollback, no further command, no register
access (R226, R234). In the waits a sub-command runs only in REISSUE mode (R230). -/
def Obligations.SubcommandFailureAbortsSwap : Prop :=
  ∀ (s : State) (r : Code) (rsv : BitVec 3), s.swp.halted = false → s.swp.call = .done r →
    r ≠ 0x0000 →
    (s.swp.state ∈ [SwpState.query, .setInd, .setPrep, .erase, .setComp] ∨
      (s.swp.state ∈ [SwpState.waitUninit, .waitReady, .waitComp] ∧
        s.cfg.waitMode = .reissueReport)) →
    ∃ u h, stepInput { rsv := rsv, move := .swp } s = .next u ∧ u.swp.state = .idle ∧
      u.swp.result = r ∧ u.swp.mode = s.swp.mode ∧ u.req.call = .done r ∧ u.seq = s.seq ∧
      u.nvm = s.nvm ∧ u.win = { s.win with fstat := floatReserved rsv s.win.fstat } ∧
      u.history = h ++ s.history ∧ .done .swp .host r ∈ h ∧ accesses h = []

/-- After a swap-control command that returned 0, a re-query's report among them (R230), SWP makes exactly one
read of FCCOB5 and stores it (R226); then it is at the dispatch or the wait of its phase (R229). That the
command leaves `swp_phase`, written as its phase was entered, is the model's (log 60). -/
def Obligations.SuccessReadsTheSwapState : Prop :=
  (∀ (s : State) (rsv : BitVec 3), s.swp.halted = false → s.swp.call = .done 0x0000 →
    (s.swp.state ∈ [SwpState.query, .setInd, .setPrep, .setComp] ∨
      (s.swp.state ∈ [SwpState.waitUninit, .waitReady, .waitComp] ∧
        s.cfg.waitMode = .reissueReport)) →
    ∃ u, stepInput { rsv := rsv, move := .swp } s = .next u ∧ u.swp.state = .readMode ∧
      u.swp.phase = s.swp.phase ∧ u.history = s.history) ∧
  (∀ (s : State) (rsv : BitVec 3), s.swp.halted = false → s.swp.state = .readMode →
    ∃ u e, stepInput { rsv := rsv, move := .swp } s = .next u ∧
      u.swp.mode = s.win.fccob.get 5 ∧ u.swp.state = waitOfPhase s.swp.phase ∧
      u.history = e :: s.history ∧ accesses [e] = [.read (.fccob 5)] ∧
      u.win.fccob = s.win.fccob ∧ u.nvm = s.nvm)

/-- The phases only go forward (R229): no step of SWP but the check lowers the phase, and entering S_SETIND,
S_SETPREP or the third phase (S_ERASE, or S_SETCOMP not after the erase) raises it, and needs the state
code of the phase in `swp_mode`. That the phase is written as its command's state is entered, and by the
check, is the model's choice (log 60). -/
def Obligations.SwapPhasesGoForward : Prop :=
  ∀ (s t : State) (rsv : BitVec 3), s.swp.state ≠ .check →
    stepInput { rsv := rsv, move := .swp } s = .next t →
    s.swp.phase ≤ t.swp.phase ∧
    (t.swp.state ≠ s.swp.state →
      (t.swp.state = .setInd → s.swp.phase < t.swp.phase ∧ s.swp.mode = s.cfg.swapState.uninit) ∧
      (t.swp.state = .setPrep → s.swp.phase < t.swp.phase ∧ s.swp.mode = s.cfg.swapState.ready) ∧
      (t.swp.state = .erase → s.swp.phase < t.swp.phase ∧ s.swp.mode = s.cfg.swapState.update) ∧
      (t.swp.state = .setComp → s.swp.state = .erase ∨
        (s.swp.phase < t.swp.phase ∧ s.swp.mode = s.cfg.swapState.updateErased)))

/-- The erased sector (R232, R235 b): a whole sector of the upper half of P-Flash, aligned from its base, that
holds the address one half-bank above the indicator; its internal address is exact. -/
def Obligations.SwapErasesTheOtherBank : Prop :=
  ∀ (cfg : Config) (addr : Addr), cfg.wf = true → swapAddrOk cfg addr = true →
    let base := cfg.pflashBase.toNat
    let half := cfg.pflashSize.toNat / 2
    let e := eraseTarget cfg addr
    base + half ≤ e ∧ e + cfg.psectorSize.toNat ≤ base + cfg.pflashSize.toNat ∧
    e ≤ addr.toNat + half ∧ addr.toNat + half < e + cfg.psectorSize.toNat ∧
    (e - base) % cfg.psectorSize.toNat = 0 ∧ (eraseAddr cfg addr).toNat = e - base

/-! ## HOST -/

/-- Translation (R262, R263, R265): in the end-address form with a nonzero size, and in the verify form with any
size, an address in a region maps to the region's offset plus its distance from the base, D-Flash where
P-Flash does not hold it; the bases map to 0 and 0x800000; what lies in neither region is a range error;
the map is injective and stays in 24 bits. The verify form tests the start address alone. -/
def Obligations.TranslationLaws : Prop :=
  ∀ (cfg : Config) (size : Nat), cfg.wf = true →
    (0 < size →
      (∀ k, k + size ≤ cfg.pflashSize.toNat →
        translate cfg .progErase (cfg.pflashBase.toNat + k) size = some k) ∧
      (∀ k, k + size ≤ cfg.dflashSize.toNat →
        endsInP cfg (cfg.dflashBase.toNat + k) size = false →
        translate cfg .progErase (cfg.dflashBase.toNat + k) size = some (0x800000 + k)) ∧
      (∀ dest, endsInP cfg dest size = false → endsInD cfg dest size = false →
        translate cfg .progErase dest size = none) ∧
      (∀ d1 d2 x, translate cfg .progErase d1 size = some x →
        translate cfg .progErase d2 size = some x → d1 = d2) ∧
      (∀ dest x, translate cfg .progErase dest size = some x → x < 2 ^ 24)) ∧
    (∀ k, k < cfg.pflashSize.toNat →
      translate cfg .verify (cfg.pflashBase.toNat + k) size = some k) ∧
    (∀ k, k < cfg.dflashSize.toNat → startsInP cfg (cfg.dflashBase.toNat + k) = false →
      translate cfg .verify (cfg.dflashBase.toNat + k) size = some (0x800000 + k)) ∧
    (∀ dest, startsInP cfg dest = false → startsInD cfg dest = false →
      translate cfg .verify dest size = none) ∧
    (∀ d1 d2 x, translate cfg .verify d1 size = some x →
      translate cfg .verify d2 size = some x → d1 = d2) ∧
    (∀ dest x, translate cfg .verify dest size = some x → x < 2 ^ 24)

/-- Caller-input errors (R261, R263, R264, R308): alignment of the destination, then of the size, then the
range test in the operation's own form; the code is returned at once and no register is touched, whatever
the capability check draws (log 53). The model's choices: VerifyBlock takes no size and is checked with size
0 (log 58); the section wrappers take a count (log 61), whose size is the count times the unit of log 27; the
procedure for EraseBlock (log 47). -/
def Obligations.CallerErrorsTouchNothing : Prop :=
  ∀ (s : State) (rsv : BitVec 3) (cap : CapDraw) (dest size : Addr) (src : List (BitVec 32))
    (margin : Byte) (count : BitVec 16) (code : Code), s.req.ctl = .idle →
    let d := dest.toNat
    let n := size.toNat
    let u := count.toNat * s.cfg.sectionUnit.toNat
    let call (p : Proc) : Result := stepInput { rsv := rsv, move := .host (.call p cap) } s
    (callerError (if endsInP s.cfg d n then s.cfg.psectorSize.toNat else s.cfg.dsectorSize.toNat) d n
        (endsInP s.cfg d n || endsInD s.cfg d n) code →
      EndsUntouched code s (call (.eraseSector dest size))) ∧
    (callerError 4 d n (endsInP s.cfg d n || endsInD s.cfg d n) code →
      EndsUntouched code s (call (.programLongword dest size src)) ∧
      EndsUntouched code s (call (.programCheck dest size src margin))) ∧
    (callerError 8 d n (endsInP s.cfg d n || endsInD s.cfg d n) code →
      EndsUntouched code s (call (.programPhrase dest size src))) ∧
    (callerError s.cfg.align.verifyBlock.toNat d 0 (startsInP s.cfg d || startsInD s.cfg d) code →
      EndsUntouched code s (call (.verifyBlock dest margin))) ∧
    (callerError s.cfg.align.verifySection.toNat d u (startsInP s.cfg d || startsInD s.cfg d) code →
      EndsUntouched code s (call (.verifySection dest count margin))) ∧
    (callerError s.cfg.align.eraseBlock.toNat d n (endsInP s.cfg d n || endsInD s.cfg d n) code →
      EndsUntouched code s (call (.eraseBlock dest size))) ∧
    (callerError s.cfg.align.programSection.toNat d u
        (endsInP s.cfg d u || endsInD s.cfg d u) code →
      EndsUntouched code s (call (.programSection dest count)))

/-- The wrappers expand into commands (R136, R266-R269). EraseSector, ProgramLongword, ProgramPhrase and
ProgramCheck: one per sector or unit, in address order, from the translated start; with size 0 none, and
Success. Every other wrapper: exactly one, with its operands. A capability check comes last (log 53),
and what it draws is log 26. The model's choices: VerifyBlock takes no size (log 58); VerifySection and
ProgramSection take a count (log 61) of the units of log 27; the procedure for EraseBlock is log 47. -/
def Obligations.WrappersExpandIntoUnits : Prop :=
  ∀ (s : State) (rsv : BitVec 3) (cap : CapDraw) (dest size : Addr) (src : List (BitVec 32))
    (margin index ctl eee depart sel : Byte) (count : BitVec 16) (v : BitVec 32) (ia : IAddr) (a : Nat),
    s.req.ctl = .idle →
    let call (p : Proc) : Result := stepInput { rsv := rsv, move := .host (.call p cap) } s
    let issues (p : Proc) (goal : Goal) (l : List Instr) : Prop :=
      ∃ u, call p = .next u ∧ u.req.ctl = .commands goal 0 l ∧ u.req.call = .none ∧
        u.seq = s.seq ∧ u.history = s.history
    let d := dest.toNat
    let n := size.toNat
    let span := count.toNat * s.cfg.sectionUnit.toNat
    let sector := if endsInP s.cfg d n then s.cfg.psectorSize.toNat else s.cfg.dsectorSize.toNat
    (translate s.cfg .progErase d n = some a →
      (d % sector = 0 → n % sector = 0 → 0 < n → 0 < sector →
        issues (.eraseSector dest size) .plain
          ((List.range (n / sector)).map fun k => .eraseSector (BitVec.ofNat 24 (a + k * sector)))) ∧
      (d % sector = 0 → n = 0 → EndsUntouched 0x0000 s (call (.eraseSector dest size))) ∧
      (d % 4 = 0 → n % 4 = 0 → 0 < n → n / 4 ≤ src.length →
        issues (.programLongword dest size src) .plain
          ((List.range (n / 4)).map fun k =>
            .programLongword (BitVec.ofNat 24 (a + k * 4)) (src.getD k 0)) ∧
        issues (.programCheck dest size src margin) (.check dest)
          ((List.range (n / 4)).map fun k =>
            .programCheck (BitVec.ofNat 24 (a + k * 4)) margin (src.getD k 0))) ∧
      (d % 4 = 0 → n = 0 →
        EndsUntouched 0x0000 s (call (.programLongword dest size src)) ∧
        EndsUntouched 0x0000 s (call (.programCheck dest size src margin))) ∧
      (d % 8 = 0 → n % 8 = 0 → 0 < n → 2 * (n / 8) ≤ src.length →
        issues (.programPhrase dest size src) .plain
          ((List.range (n / 8)).map fun k => .programPhrase (BitVec.ofNat 24 (a + k * 8))
            (src.getD (2 * k) 0) (src.getD (2 * k + 1) 0))) ∧
      (d % 8 = 0 → n = 0 → EndsUntouched 0x0000 s (call (.programPhrase dest size src))) ∧
      (d % s.cfg.align.eraseBlock.toNat = 0 → n % s.cfg.align.eraseBlock.toNat = 0 →
        issues (.eraseBlock dest size) .plain [.eraseBlock (BitVec.ofNat 24 a)])) ∧
    (translate s.cfg .verify d 0 = some a → d % s.cfg.align.verifyBlock.toNat = 0 →
      issues (.verifyBlock dest margin) .plain [.verifyBlock (BitVec.ofNat 24 a) margin]) ∧
    (translate s.cfg .verify d span = some a → d % s.cfg.align.verifySection.toNat = 0 →
      span % s.cfg.align.verifySection.toNat = 0 →
      issues (.verifySection dest count margin) .plain
        [.verifySection (BitVec.ofNat 24 a) count margin]) ∧
    (translate s.cfg .progErase d span = some a → d % s.cfg.align.programSection.toNat = 0 →
      span % s.cfg.align.programSection.toNat = 0 →
      (cap.fails = false → issues (.programSection dest count) .plain
        [.programSection (BitVec.ofNat 24 a) count]) ∧
      (cap.fails = true → EndsUntouched 0x2000 s (call (.programSection dest count)))) ∧
    issues (.verifyAllBlock margin) .plain [.verifyAllBlock margin] ∧
    issues .eraseAllBlock .plain [.eraseAllBlock] ∧
    issues (.readOnce index) .once [.readOnce index] ∧
    issues (.programOnce index v) .plain [.programOnce index v] ∧
    issues (.readResource ia sel) .resource [.readResource ia sel] ∧
    issues (.pflashSwap dest) .plain [.swap dest] ∧
    (cap.fails = false → issues (.setEEEEnable ctl) .plain [.setEERAM ctl]) ∧
    (cap.fails = true → ∃ c ∈ ([0x0200, 0x2000] : List Code),
      EndsUntouched c s (call (.setEEEEnable ctl))) ∧
    (cap.fails = false → s.cfg.dflashPhysSize ≠ 0 →
      issues (.deFlashPartition eee depart) .plain [.programPartition eee depart]) ∧
    (cap.fails = true ∨ s.cfg.dflashPhysSize = 0 →
      ∃ c ∈ ([0x0040, 0x0080, 0x0200, 0x0400, 0x0800] : List Code),
        EndsUntouched c s (call (.deFlashPartition eee depart)))

/-- The command loop of every procedure (R266-R271), whatever it does at its end: an unanswered command is
offered to SEQ, and that step is exec of it; a failing command ends the loop with its result, for
ProgramCheck after reading the failing data, and nothing more is issued; a succeeding one is followed by
the next, and the last one by Success, by the read-back of ReadOnce (R200) or ReadResource (R193), or by
FlashInit's (R282). The slots of a once record and of a resource are parameters (log 28). -/
def Obligations.WrapperLoopStopsAtFirstFailure : Prop :=
  ∀ (s : State) (goal : Goal) (k : Nat) (i j : Instr) (t : List Instr) (r : Code) (ins : List Input),
    (s.req.ctl = .commands goal k (i :: t) → s.req.call = .none →
      hostStep .go s = exec i { s with port := .host }) ∧
    (s.req.ctl = .commands goal k (i :: t) → s.req.call = .done r → r ≠ 0x0000 →
      (∀ dest, goal ≠ .check dest) →
      ∃ u, hostStep .go s = .next u ∧ u.req.ctl = .idle ∧ u.req.ret.code = r ∧ u.seq = s.seq ∧
        u.win = s.win ∧ u.cfg = s.cfg ∧ accesses u.history = accesses s.history) ∧
    (∀ dest, goal = .check dest → s.req.ctl = .commands goal k (i :: t) → s.req.call = .done r →
      r ≠ 0x0000 →
      ∃ u, hostStep .go s = .next u ∧ u.req.ctl = .readBack goal r
          (some (dest + BitVec.ofNat 32 (4 * k))) s.cfg.failDataSlots [] ∧
        u.seq = s.seq ∧ u.win = s.win ∧ u.history = s.history) ∧
    (s.req.ctl = .commands goal k (i :: j :: t) → s.req.call = .done 0x0000 →
      ∃ u, hostStep .go s = .next u ∧ u.req.ctl = .commands goal (k + 1) (j :: t) ∧
        u.req.call = .none ∧ u.seq = s.seq ∧ u.win = s.win ∧ u.history = s.history) ∧
    (s.req.ctl = .commands goal k [i] → s.req.call = .done 0x0000 →
      (goal = .plain ∨ ∃ dest, goal = .check dest) →
      ∃ u, hostStep .go s = .next u ∧ u.req.ctl = .idle ∧
        u.req.ret = { code := 0x0000, failAddr := none, data := [] } ∧ u.seq = s.seq ∧
        u.win = s.win) ∧
    (∀ slots : List Slot, s.req.ctl = .commands goal k [i] → s.req.call = .done 0x0000 →
      (goal = .once ∧ slots = s.cfg.onceSlots ∨ goal = .resource ∧ slots = s.cfg.resourceSlots) →
      makes ins (List.replicate (slots.length + 2) (.host .go)) →
      ∃ u h, runInputs ins s = .next u ∧ u.req.ctl = .idle ∧
        u.req.ret = { code := 0x0000, failAddr := none,
                      data := slots.map fun q => s.win.fccob.get q } ∧
        u.seq = s.seq ∧ u.win.fccob = s.win.fccob ∧ u.history = h ++ s.history ∧
        accesses h = slots.map fun q => .read (.fccob q)) ∧
    (s.req.ctl = .commands .init k [i] → s.req.call = .done 0x0000 →
      ∃ u, hostStep .go s = .next u ∧ u.req.ctl = .readBack .init 0x0000 none
          [s.cfg.departSlot, s.cfg.eeeSizeSlot] [] ∧
        u.seq = s.seq ∧ u.win = s.win ∧ u.cfg = s.cfg ∧ u.history = s.history)

/-- ProgramCheck's failure at unit `k` (R268): the command's result, the failing unit's system address, and the
bytes of P_FAILDATA_SLOTS, whose order is the model's choice: a list, read in its order (log 57). -/
def Obligations.ProgramCheckReportsTheFailure : Prop :=
  ∀ (s : State) (dest : Addr) (k : Nat) (i : Instr) (t : List Instr) (r : Code) (ins : List Input),
    s.req.ctl = .commands (.check dest) k (i :: t) → s.req.call = .done r → r ≠ 0x0000 →
    makes ins (List.replicate (s.cfg.failDataSlots.length + 2) (.host .go)) →
    ∃ u, runInputs ins s = .next u ∧ u.req.ctl = .idle ∧
      u.req.ret = { code := r, failAddr := some (dest + BitVec.ofNat 32 (4 * k)),
                    data := s.cfg.failDataSlots.map fun j => s.win.fccob.get j } ∧
      u.seq = s.seq ∧ u.win.fccob = s.win.fccob

/-- The 8-bit protection setters (R276-R281): the outcome of the rule in either mode, for a controller that is
idle; the refusal while a command is in flight, after one read. -/
def Obligations.ByteProtectionSetters : Prop :=
  ∀ (s : State) (new : Byte) (cap : CapDraw) (ins : List Input),
    s.req.ctl = .idle → s.serving = false →
    (s.ccif = true →
      makes ins (.host (.call (.setProtection .dflash (new.setWidth 32)) cap) ::
        List.replicate 9 (.host .go)) →
      ∃ u, runInputs ins s = .next u ∧ u.req.ctl = .idle ∧
        (u.req.ret.code, u.win.fdprot) = setterOutcome s.nvm.protMode s.win.fdprot new ∧
        u.win.feprot = s.win.feprot ∧ u.win.fprot = s.win.fprot ∧ u.nvm = s.nvm ∧ u.seq = s.seq) ∧
    (s.ccif = true →
      makes ins (.host (.call (.setProtection .eeram (new.setWidth 32)) cap) ::
        List.replicate 9 (.host .go)) →
      ∃ u, runInputs ins s = .next u ∧ u.req.ctl = .idle ∧
        (u.req.ret.code, u.win.feprot) = setterOutcome s.nvm.protMode s.win.feprot new ∧
        u.win.fdprot = s.win.fdprot ∧ u.win.fprot = s.win.fprot ∧ u.nvm = s.nvm ∧ u.seq = s.seq) ∧
    (s.ccif = false → ∀ p, makes ins [.host (.call (.setProtection p (new.setWidth 32)) cap), .host .go] →
      ∃ u h, runInputs ins s = .next u ∧ u.req.ctl = .idle ∧ u.req.ret.code = 0x0020 ∧
        u.win.fdprot = s.win.fdprot ∧ u.win.feprot = s.win.feprot ∧ u.win.fprot = s.win.fprot ∧
        u.history = h ++ s.history ∧ accesses h = [.read .fstat])

/-- The 32-bit P-Flash protection setter (R275-R281), over FPROT0..3 in the order P_FPROT_ORDER, accessed from the
most significant byte down (the model's, log 51). -/
def Obligations.PFlashProtectionSetter : Prop :=
  ∀ (s : State) (new : BitVec 32) (cap : CapDraw) (ins : List Input),
    s.cfg.wf = true → s.req.ctl = .idle → s.serving = false → s.ccif = true →
    makes ins (.host (.call (.setProtection .pflash new) cap) :: List.replicate 21 (.host .go)) →
    ∃ u, runInputs ins s = .next u ∧ u.req.ctl = .idle ∧
      (u.req.ret.code, protWord s.cfg u.win)
        = setterOutcome s.nvm.protMode (protWord s.cfg s.win) new ∧
      u.win.fdprot = s.win.fdprot ∧ u.win.feprot = s.win.feprot ∧ u.nvm = s.nvm ∧ u.seq = s.seq

/-- FlashInit's busy-wait and the derivative without D-Flash (R282). While CCIF = 0 it reads FSTAT any number of
times and does nothing else. At CCIF = 1, without D-Flash: one read, both sizes 0, Success; when an earlier
FlashInit of the run has fixed other sizes (R8, R346) it is refused (the model's, log 48). -/
def Obligations.FlashInitWaitsAndSkipsWithoutDFlash : Prop :=
  (∀ (s : State) (cap : CapDraw) (k : Nat) (ins : List Input), s.req.ctl = .idle → s.ccif = false →
    makes ins (.host (.call .flashInit cap) :: List.replicate k (.host .go)) →
    ∃ u h, runInputs ins s = .next u ∧ u.req = { s.req with ctl := .initPoll, call := .none } ∧
      u.cfg = s.cfg ∧ u.seq = s.seq ∧ u.swp = s.swp ∧ u.nvm = s.nvm ∧
      u.win = { s.win with fstat := u.win.fstat } ∧ namedFlags u.win.fstat = namedFlags s.win.fstat ∧
      u.history = h ++ s.history ∧ accesses h = List.replicate k (.read .fstat) ∧ h.length = k) ∧
  (∀ (s : State) (cap : CapDraw) (ins : List Input),
    s.req.ctl = .idle → s.ccif = true → s.cfg.dflashPhysSize = 0 →
    makes ins [.host (.call .flashInit cap), .host .go] →
    (s.req.initDone = false ∨ (s.cfg.dflashSize = 0 ∧ s.cfg.eeeSize = 0) →
      ∃ u h, runInputs ins s = .next u ∧ u.req.ctl = .idle ∧ u.req.ret.code = 0x0000 ∧
        u.req.initDone = true ∧
        u.cfg = { s.cfg with dflashSize := 0, eeeSize := 0 } ∧ u.seq = s.seq ∧
        u.history = h ++ s.history ∧ accesses h = [.read .fstat]) ∧
    (s.req.initDone = true → (s.cfg.dflashSize ≠ 0 ∨ s.cfg.eeeSize ≠ 0) →
      runInputs ins s = .refused .refuseConfigChange))

/-- FlashInit (R282, R283): with D-Flash, the Read-Resource command at P_IFR_ADDR, in P_LAYOUT's row for it;
after its success the sizes are the table entries the low nibbles of the two returned bytes select; after
its failure its result, and the sizes unwritten. The serving of the command is the quickest (R167 with one
poll). At the end of a later FlashInit of the run the configuration stays (R8, R346): the same sizes end it
with Success, and other sizes are refused (the model's, log 48). -/
def Obligations.FlashInitDiscoversSizes : Prop :=
  (∀ (s : State) (cap : CapDraw) (o : NvmOutcome) (ins : List Input),
    s.ready = true → s.req.ctl = .idle → s.swp.state = .idle → s.cfg.debugEnable = false →
    s.cfg.layout.ok = true → s.cfg.dflashPhysSize ≠ 0 → s.req.initDone = false →
    makes ins ([.host (.call .flashInit cap), .host .go, .host .go].append
      ((commandMoves s.cfg.layout.readResource.n o).append (List.replicate 4 (.host .go)))) →
    ∃ u h n p, runInputs ins s = .next u ∧ u.req.ctl = .idle ∧ u.req.ret.code = outcomeCode o ∧
      u.history = h ++ s.history ∧
      LaidOut s.cfg.layout.readResource 0x03 (addressBytes s.cfg.ifrAddr ++ [s.cfg.ifrSel]) n p ∧
      loads h = loadsOfSlots n p ∧
      (s.cfg.layout = Layout.standard →
        loads h = loadsOf [0x03, s.cfg.ifrAddr.extractLsb' 16 8, s.cfg.ifrAddr.extractLsb' 8 8,
          s.cfg.ifrAddr.extractLsb' 0 8, 0, 0, 0, 0, s.cfg.ifrSel]) ∧
      (outcomeCode o ≠ 0x0000 → u.cfg = s.cfg ∧ u.req.initDone = false) ∧
      (outcomeCode o = 0x0000 → u.req.initDone = true ∧
        u.cfg = { s.cfg with
          dflashSize := s.cfg.departTable.get
            ⟨(u.win.fccob.get s.cfg.departSlot).toNat % 16, Nat.mod_lt _ (by decide)⟩
          eeeSize := s.cfg.eeeSizeTable.get
            ⟨(u.win.fccob.get s.cfg.eeeSizeSlot).toNat % 16, Nat.mod_lt _ (by decide)⟩ })) ∧
  (∀ (s : State) (bd be : Byte), s.req.initDone = true →
    s.req.ctl = .readBack .init 0x0000 none [] [bd, be] →
    let size := s.cfg.departTable.get ⟨bd.toNat % 16, Nat.mod_lt _ (by decide)⟩
    let eee := s.cfg.eeeSizeTable.get ⟨be.toNat % 16, Nat.mod_lt _ (by decide)⟩
    (size = s.cfg.dflashSize → eee = s.cfg.eeeSize →
      ∃ u, hostStep .go s = .next u ∧ u.cfg = s.cfg ∧ u.req.ctl = .idle ∧ u.req.ret.code = 0x0000 ∧
        u.req.initDone = true ∧ u.seq = s.seq ∧ u.win = s.win) ∧
    (size ≠ s.cfg.dflashSize ∨ eee ≠ s.cfg.eeeSize →
      hostStep .go s = .refused .refuseConfigChange))

/-- FlashSecurityBypass (R285): one read of FSEC; the unsecured pattern ends it with Success and no command; else
the key is the next command. -/
def Obligations.SecurityBypassReadsFsecFirst : Prop :=
  ∀ (s : State) (key : Vector Byte 8) (cap : CapDraw) (ins : List Input), s.req.ctl = .idle →
    makes ins [.host (.call (.securityBypass key) cap), .host .go] →
    ∃ u h, runInputs ins s = .next u ∧ u.history = h ++ s.history ∧ accesses h = [.read .fsec] ∧
      u.seq = s.seq ∧ u.nvm = s.nvm ∧
      (s.win.fsec &&& s.cfg.unsecureMask = s.cfg.unsecureValue →
        u.req.ctl = .idle ∧ u.req.ret.code = 0x0000) ∧
      (s.win.fsec &&& s.cfg.unsecureMask ≠ s.cfg.unsecureValue →
        u.req.ctl = .commands .plain 0 [.securityBypass key])

/-- The getters (R275, R284): GetSecurityState returns FSEC, and the protection getters return their registers,
by reads alone; the order of the reads of FPROT0..3 is the model's (log 51). The bit primitives (R92):
testBit is one read and its test; setBit and clearBit are a read and then a write of what was read, two
steps between which other agents may move, and the write is a HOST write as any other, faults included. -/
def Obligations.GettersAndBitPrimitives : Prop :=
  (∀ (s : State) (cap : CapDraw) (ins : List Input), s.req.ctl = .idle →
    (makes ins (.host (.call .getSecurityState cap) :: List.replicate 2 (.host .go)) →
      ∃ u h, runInputs ins s = .next u ∧ u.req.ret.data = [s.win.fsec] ∧
        u.history = h ++ s.history ∧ accesses h = [.read .fsec] ∧ u.seq = s.seq) ∧
    (makes ins (.host (.call (.getProtection .pflash) cap) :: List.replicate 5 (.host .go)) →
      ∃ u h, runInputs ins s = .next u ∧
        u.req.ret.data = s.cfg.fprotOrder.toList.map (fun i => s.win.fprot.get i) ∧
        u.history = h ++ s.history ∧
        accesses h = s.cfg.fprotOrder.toList.map (fun i => .read (.fprot i)) ∧ u.seq = s.seq) ∧
    (makes ins (.host (.call (.getProtection .dflash) cap) :: List.replicate 2 (.host .go)) →
      ∃ u h, runInputs ins s = .next u ∧ u.req.ret.data = [s.win.fdprot] ∧
        u.history = h ++ s.history ∧ accesses h = [.read .fdprot] ∧ u.seq = s.seq) ∧
    (makes ins (.host (.call (.getProtection .eeram) cap) :: List.replicate 2 (.host .go)) →
      ∃ u h, runInputs ins s = .next u ∧ u.req.ret.data = [s.win.feprot] ∧
        u.history = h ++ s.history ∧ accesses h = [.read .feprot] ∧ u.seq = s.seq)) ∧
  (∀ (s : State) (cap : CapDraw) (r : Reg) (m : Byte), s.req.ctl = .idle →
    let starts (p : Proc) (c : ReqCtl) : Prop :=
      hostStep (.call p cap) s = .next { s with req := { s.req with ctl := c, call := .none } }
    starts (.testBit r m) (.testBit r m) ∧ starts (.setBit r m) (.rmwRead r m true) ∧
      starts (.clearBit r m) (.rmwRead r m false)) ∧
  (∀ (s : State) (r : Reg) (m v : Byte),
    let read : Event := .regRead .host r (regAddr s.cfg r) (readReg s r)
    (s.req.ctl = .testBit r m →
      ∃ u e, hostStep .go s = .next u ∧ u.req.ctl = .idle ∧
        u.req.ret = { code := 0x0000, failAddr := none,
                      data := [if readReg s r &&& m = 0 then 0 else 1] } ∧
        u = { s with req := u.req, history := e :: read :: s.history } ∧ accesses [e] = []) ∧
    (s.req.ctl = .rmwRead r m true →
      hostStep .go s = .next { s with
        req := { s.req with ctl := .rmwWrite r (readReg s r ||| m), call := .none }
        history := read :: s.history }) ∧
    (s.req.ctl = .rmwRead r m false →
      hostStep .go s = .next { s with
        req := { s.req with ctl := .rmwWrite r (readReg s r &&& ~~~m), call := .none }
        history := read :: s.history }) ∧
    (s.req.ctl = .rmwWrite r v →
      (∀ f, hostWrite r v s = .fault f → hostStep .go s = .fault f) ∧
      ∀ t, hostWrite r v s = .next t →
        ∃ u e, hostStep .go s = .next u ∧ u.req.ctl = .idle ∧ u.req.ret.code = 0x0000 ∧
          u = { t with req := u.req, history := e :: t.history } ∧ accesses [e] = []))
end

