-- ==== Sys2Proof/Laws/Flags.lean ====
section
/-! SUPPORT. The flags of FSTAT after each of its writers. Each is a fact about bits. -/

namespace Sys2Proof.Machine

@[simp] theorem ccif_floatReserved (rsv : BitVec 3) (v : Byte) : ccif (floatReserved rsv v) = ccif v := by
  simp [ccif, floatReserved, namedFlags]

@[simp] theorem rdcolerr_floatReserved (rsv : BitVec 3) (v : Byte) :
    rdcolerr (floatReserved rsv v) = rdcolerr v := by
  simp [rdcolerr, floatReserved, namedFlags]

@[simp] theorem accerr_floatReserved (rsv : BitVec 3) (v : Byte) :
    accerr (floatReserved rsv v) = accerr v := by
  simp [accerr, floatReserved, namedFlags]

@[simp] theorem fpviol_floatReserved (rsv : BitVec 3) (v : Byte) :
    fpviol (floatReserved rsv v) = fpviol v := by
  simp [fpviol, floatReserved, namedFlags]

@[simp] theorem mgstat0_floatReserved (rsv : BitVec 3) (v : Byte) :
    mgstat0 (floatReserved rsv v) = mgstat0 v := by
  simp [mgstat0, floatReserved, namedFlags]

@[simp] theorem namedFlags_floatReserved (rsv : BitVec 3) (v : Byte) :
    namedFlags (floatReserved rsv v) = namedFlags v := by
  revert v rsv; decide

/-- Drawing the reserved bits as they stand changes nothing. -/
@[simp] theorem floatReserved_self (v : Byte) : floatReserved (v.extractLsb' 1 3) v = v := by
  revert v; decide

@[simp] theorem decodeStatus_floatReserved (rsv : BitVec 3) (v : Byte) :
    decodeStatus (floatReserved rsv v) = decodeStatus v := by
  simp [decodeStatus]

@[simp] theorem ccif_clearErrors_clear (f : Byte) : ccif (clearErrors f 0x70) = ccif f := by
  revert f; decide

@[simp] theorem launches_clear (f : Byte) : launches f 0x70 = false := by
  revert f; decide

/-- The clear leaves the three error flags 0. -/
theorem clearErrors_clears (f : Byte) :
    rdcolerr (clearErrors f 0x70) = false ∧ accerr (clearErrors f 0x70) = false ∧
      fpviol (clearErrors f 0x70) = false := by
  revert f; decide

@[simp] theorem clearErrors_launch (f : Byte) : clearErrors f 0x80 = f := by
  revert f; decide

/-- The launch write launches exactly where CCIF is set and ACCERR and FPVIOL are clear. -/
theorem launches_launch (f : Byte) : launches f 0x80 = (ccif f && !accerr f && !fpviol f) := by
  revert f; decide

@[simp] theorem ccif_launchedStatus (f : Byte) : ccif (launchedStatus f) = false := by
  revert f; decide

@[simp] theorem mgstat0_launchedStatus (f : Byte) : mgstat0 (launchedStatus f) = false := by
  revert f; decide

@[simp] theorem ccif_completedStatus (f : Byte) (o : NvmOutcome) : ccif (completedStatus f o) = true := by
  simp [ccif, completedStatus]

/-- A completion sets the drawn error flags and clears none; MGSTAT0 takes the drawn value. -/
theorem completedStatus_flags (f : Byte) (o : NvmOutcome) :
    rdcolerr (completedStatus f o) = (rdcolerr f || o.rdcolerr) ∧
      accerr (completedStatus f o) = (accerr f || o.accerr) ∧
      fpviol (completedStatus f o) = (fpviol f || o.fpviol) ∧
      mgstat0 (completedStatus f o) = o.mgstat0 := by
  unfold completedStatus rdcolerr accerr fpviol mgstat0
  cases o.rdcolerr <;> cases o.accerr <;> cases o.fpviol <;> cases o.mgstat0 <;> simp [flagIf]

/-- The decoder answers one of the four codes of R174. -/
theorem decodeStatus_mem (v : Byte) : decodeStatus v ∈ executeCodes := by
  revert v; decide

end Sys2Proof.Machine
end

