-- ==== Sys2Proof/Laws/Layout.lean ====
section
/-! SUPPORT. Command objects in a layout: what each slot holds, and that the operands are read back. -/

namespace Sys2Proof.Machine

@[simp] theorem slotsOf_get (f : Slot → Byte) (i : Slot) : (slotsOf f).get i = f i := by
  revert i; simp [Fin.forall_fin_succ, slotsOf, Vector.get_eq_getElem]

@[simp] theorem laidOut_n (r : LayoutRow) (op : Byte) (bytes : List Byte) :
    (laidOut r op bytes).n = r.n := rfl

@[simp] theorem laidOut_opcode (r : LayoutRow) (op : Byte) (bytes : List Byte) :
    (laidOut r op bytes).p.get 0 = op := by
  simp [laidOut]

/-- What a row that fits its command says of its slots. -/
theorem LayoutRow.ok_iff {arity : Nat} {r : LayoutRow} : r.ok arity = true ↔
    r.params.length = arity ∧ r.params.Nodup ∧ ∀ i ∈ r.params, i ≠ 0 ∧ i.val ≤ r.n.val := by
  simp [LayoutRow.ok, and_assoc]

/-- The row of every opcode fits its command, in a well-formed layout. -/
theorem Layout.row_ok {l : Layout} (h : l.ok = true) (o : Opcode) : (l.row o).ok o.arity = true := by
  simp only [Layout.ok, Bool.and_eq_true, List.all_eq_true] at h
  exact h.1.1.1 o (by cases o <;> decide)

/-- The slots a row does not use hold 0. -/
theorem laidOut_unused (r : LayoutRow) (op : Byte) (bytes : List Byte) {i : Slot} (h0 : i ≠ 0)
    (hi : i ∉ r.params) : (laidOut r op bytes).p.get i = 0 := by
  simp [laidOut, h0, hi]

/-- The `j`-th slot of a row holds operand byte `j`. -/
theorem laidOut_param {arity j : Nat} {r : LayoutRow} {op : Byte} {bytes : List Byte} {i : Slot}
    (h : r.ok arity = true) (hi : r.params[j]? = some i) :
    (laidOut r op bytes).p.get i = bytes.getD j 0 := by
  obtain ⟨-, hnd, hs⟩ := LayoutRow.ok_iff.mp h
  obtain ⟨hj, rfl⟩ := List.getElem?_eq_some_iff.mp hi
  have hm := List.getElem_mem hj
  simp [laidOut, (hs _ hm).1, hm, hnd.idxOf_getElem j hj]

/-- Reading operand byte `j` of an object gives the byte it was laid out with. -/
theorem fieldByte_laidOut {arity j : Nat} {r : LayoutRow} {op : Byte} {bytes : List Byte}
    (h : r.ok arity = true) (hj : j < arity) :
    fieldByte r (laidOut r op bytes).p j = bytes.getD j 0 := by
  have hl : j < r.params.length := by rw [(LayoutRow.ok_iff.mp h).1]; exact hj
  have he : r.params[j]? = some r.params[j] := List.getElem?_eq_getElem hl
  simp only [fieldByte, he]
  exact laidOut_param h he

/-- A command object is laid out as its row says. -/
theorem laidOut_spec {arity : Nat} {r : LayoutRow} (op : Byte) {bytes : List Byte} (h : r.ok arity = true)
    (hb : bytes.length = arity) : LaidOut r op bytes (laidOut r op bytes).n (laidOut r op bytes).p := by
  obtain ⟨hl, -, -⟩ := LayoutRow.ok_iff.mp h
  refine ⟨rfl, laidOut_opcode r op bytes, hl.trans hb.symm, fun j i hi => ?_,
    fun i h0 hi => laidOut_unused r op bytes h0 hi⟩
  obtain ⟨hj, -⟩ := List.getElem?_eq_some_iff.mp hi
  rw [laidOut_param h hi, List.getElem?_eq_getElem (by omega), List.getD_eq_getElem _ _ (by omega)]

end Sys2Proof.Machine
end

