-- ==== Sys2Proof/Laws/Memory.lean ====
section
/-! SUPPORT. The sparse memory: read after write, and the canonical form. -/

namespace Sys2Proof.Machine

theorem Memory.wfFrom_mono {lo lo' : Nat} (h : lo' ≤ lo) :
    ∀ {m : Memory}, Memory.wfFrom lo m = true → Memory.wfFrom lo' m = true
  | [], _ => rfl
  | (b, w) :: t, hm => by
    simp only [Memory.wfFrom, Bool.and_eq_true, decide_eq_true_eq] at hm ⊢
    exact ⟨⟨by omega, hm.1.2⟩, hm.2⟩

/-- Below its first address a canonical memory reads as unwritten. -/
theorem Memory.read_below : ∀ {m : Memory} {lo a : Nat}, Memory.wfFrom lo m = true → a < lo →
    Memory.read m a = unwritten
  | [], _, _, _, _ => rfl
  | (b, w) :: t, lo, a, hm, ha => by
    simp only [Memory.wfFrom, Bool.and_eq_true, decide_eq_true_eq] at hm
    rw [Memory.read, if_neg (by omega)]
    exact Memory.read_below hm.2 (by omega)

/-- A write leaves every other address alone, in any memory. -/
theorem Memory.read_write_other : ∀ (m : Memory) {a x : Nat} (v : Byte), x ≠ a →
    Memory.read (Memory.write m a v) x = Memory.read m x
  | [], a, x, v, h => by
    unfold Memory.write; split <;> simp [Memory.read, h]
  | (b, w) :: t, a, x, v, h => by
    have ih := Memory.read_write_other t v h
    unfold Memory.write
    split
    · split <;> simp [Memory.read, h]
    · split
      · split <;> simp_all [Memory.read]
      · simp [Memory.read, ih]

/-- A read after a write to the same address gives the value written, in a canonical memory. -/
theorem Memory.read_write_same : ∀ {m : Memory} {lo : Nat} (a : Nat) (v : Byte),
    Memory.wfFrom lo m = true → Memory.read (Memory.write m a v) a = v
  | [], _, a, v, _ => by
    unfold Memory.write; split <;> simp_all [Memory.read]
  | (b, w) :: t, lo, a, v, hm => by
    simp only [Memory.wfFrom, Bool.and_eq_true, decide_eq_true_eq] at hm
    have hb := @Memory.read_below t (b + 1)
    unfold Memory.write
    split
    · split
      · rename_i h1 h2
        rw [Memory.read, if_neg (by omega), hb hm.2 (by omega), h2]
      · simp [Memory.read]
    · split
      · split
        · rename_i h1 h2 h3
          rw [hb hm.2 (by omega), h3]
        · simp [Memory.read]
      · rename_i h1 h2
        rw [Memory.read, if_neg h2]
        exact Memory.read_write_same a v hm.2

/-- A write keeps the canonical form from any lower bound that admits its address. -/
theorem Memory.wfFrom_write : ∀ {m : Memory} {lo : Nat} (a : Nat) (v : Byte),
    Memory.wfFrom lo m = true → lo ≤ a → Memory.wfFrom lo (Memory.write m a v) = true
  | [], lo, a, v, _, ha => by
    unfold Memory.write; split <;> simp_all [Memory.wfFrom]
  | (b, w) :: t, lo, a, v, hm, ha => by
    have hm' := hm
    simp only [Memory.wfFrom, Bool.and_eq_true, decide_eq_true_eq] at hm
    unfold Memory.write
    split
    · split
      · exact hm'
      · simp only [Memory.wfFrom, Bool.and_eq_true, decide_eq_true_eq]
        exact ⟨⟨ha, by simpa using ‹¬v = unwritten›⟩, ⟨by omega, hm.1.2⟩, hm.2⟩
    · split
      · split
        · exact Memory.wfFrom_mono (by omega) hm.2
        · simp only [Memory.wfFrom, Bool.and_eq_true, decide_eq_true_eq]
          rename_i h1 h2 h3
          exact ⟨⟨ha, by simpa using h3⟩, h2 ▸ hm.2⟩
      · simp only [Memory.wfFrom, Bool.and_eq_true, decide_eq_true_eq]
        exact ⟨hm.1, Memory.wfFrom_write a v hm.2 (by omega)⟩

/-- A write keeps the canonical form. -/
theorem Memory.wf_write {m : Memory} (a : Nat) (v : Byte) (h : Memory.wf m = true) :
    Memory.wf (Memory.write m a v) = true :=
  Memory.wfFrom_write a v h (Nat.zero_le a)

/-- Writing a list of bytes keeps the canonical form. -/
theorem Memory.wf_writeCells (p : Nat → Bool) : ∀ (l : List Host.Cell) {m : Memory},
    Memory.wf m = true → Memory.wf (Memory.writeCells p l m) = true
  | [], _, h => h
  | (a, v) :: t, m, h => by
    unfold Memory.writeCells
    apply Memory.wf_writeCells p t
    split
    · exact Memory.wf_write a v h
    · exact h

/-- Writing a list of bytes leaves every address that is not admitted alone. -/
theorem Memory.read_writeCells (p : Nat → Bool) {x : Nat} (hx : p x = false) :
    ∀ (l : List Host.Cell) (m : Memory), Memory.read (Memory.writeCells p l m) x = Memory.read m x
  | [], _ => rfl
  | (a, v) :: t, m => by
    unfold Memory.writeCells
    rw [Memory.read_writeCells p hx t]
    split
    · rename_i h
      exact Memory.read_write_other m v (fun e => by simp [← e, hx] at h)
    · rfl

/-- Reset's memories are canonical. -/
theorem Memory.wf_reset :
    Memory.wf State.reset.nvm.flash = true ∧ Memory.wf State.reset.nvm.ifr = true := ⟨rfl, rfl⟩

end Sys2Proof.Machine
end

