-- ==== Sys2Proof/Laws/State.lean ====
section
/-! SUPPORT. One lemma for each field and each update of the state: what the update leaves, and what it writes. -/

namespace Sys2Proof.Machine

/-! ## emit -/

@[simp] theorem State.emit_cfg (e : Event) (s : State) :
    (s.emit e).cfg = s.cfg := rfl

@[simp] theorem State.emit_win (e : Event) (s : State) :
    (s.emit e).win = s.win := rfl

@[simp] theorem State.emit_seq (e : Event) (s : State) :
    (s.emit e).seq = s.seq := rfl

@[simp] theorem State.emit_swp (e : Event) (s : State) :
    (s.emit e).swp = s.swp := rfl

@[simp] theorem State.emit_nvm (e : Event) (s : State) :
    (s.emit e).nvm = s.nvm := rfl

@[simp] theorem State.emit_req (e : Event) (s : State) :
    (s.emit e).req = s.req := rfl

@[simp] theorem State.emit_port (e : Event) (s : State) :
    (s.emit e).port = s.port := rfl

@[simp] theorem State.emit_history (e : Event) (s : State) :
    (s.emit e).history = e :: s.history := rfl

@[simp] theorem State.emit_inputs (e : Event) (s : State) :
    (s.emit e).inputs = s.inputs := rfl

@[simp] theorem State.emit_tick (e : Event) (s : State) :
    (s.emit e).tick = s.tick := rfl

/-! ## A register read -/

@[simp] theorem logRead_cfg (who : Agent) (r : Reg) (s : State) :
    (logRead who r s).cfg = s.cfg := rfl

@[simp] theorem logRead_win (who : Agent) (r : Reg) (s : State) :
    (logRead who r s).win = s.win := rfl

@[simp] theorem logRead_seq (who : Agent) (r : Reg) (s : State) :
    (logRead who r s).seq = s.seq := rfl

@[simp] theorem logRead_swp (who : Agent) (r : Reg) (s : State) :
    (logRead who r s).swp = s.swp := rfl

@[simp] theorem logRead_nvm (who : Agent) (r : Reg) (s : State) :
    (logRead who r s).nvm = s.nvm := rfl

@[simp] theorem logRead_req (who : Agent) (r : Reg) (s : State) :
    (logRead who r s).req = s.req := rfl

@[simp] theorem logRead_port (who : Agent) (r : Reg) (s : State) :
    (logRead who r s).port = s.port := rfl

@[simp] theorem logRead_history (who : Agent) (r : Reg) (s : State) :
    (logRead who r s).history = .regRead who r (regAddr s.cfg r) (readReg s r) :: s.history := rfl

@[simp] theorem logRead_inputs (who : Agent) (r : Reg) (s : State) :
    (logRead who r s).inputs = s.inputs := rfl

@[simp] theorem logRead_tick (who : Agent) (r : Reg) (s : State) :
    (logRead who r s).tick = s.tick := rfl

/-! ## A register write -/

@[simp] theorem logWrite_cfg (who : Agent) (r : Reg) (v : Byte) (s : State) :
    (logWrite who r v s).cfg = s.cfg := rfl

@[simp] theorem logWrite_win (who : Agent) (r : Reg) (v : Byte) (s : State) :
    (logWrite who r v s).win = s.win := rfl

@[simp] theorem logWrite_seq (who : Agent) (r : Reg) (v : Byte) (s : State) :
    (logWrite who r v s).seq = s.seq := rfl

@[simp] theorem logWrite_swp (who : Agent) (r : Reg) (v : Byte) (s : State) :
    (logWrite who r v s).swp = s.swp := rfl

@[simp] theorem logWrite_nvm (who : Agent) (r : Reg) (v : Byte) (s : State) :
    (logWrite who r v s).nvm = s.nvm := rfl

@[simp] theorem logWrite_req (who : Agent) (r : Reg) (v : Byte) (s : State) :
    (logWrite who r v s).req = s.req := rfl

@[simp] theorem logWrite_port (who : Agent) (r : Reg) (v : Byte) (s : State) :
    (logWrite who r v s).port = s.port := rfl

@[simp] theorem logWrite_history (who : Agent) (r : Reg) (v : Byte) (s : State) :
    (logWrite who r v s).history = .regWrite who r (regAddr s.cfg r) v :: s.history := rfl

@[simp] theorem logWrite_inputs (who : Agent) (r : Reg) (v : Byte) (s : State) :
    (logWrite who r v s).inputs = s.inputs := rfl

@[simp] theorem logWrite_tick (who : Agent) (r : Reg) (v : Byte) (s : State) :
    (logWrite who r v s).tick = s.tick := rfl

/-! ## A launch -/

@[simp] theorem launchCommand_cfg (f : Byte) (s : State) :
    (launchCommand f s).cfg = s.cfg := rfl

@[simp] theorem launchCommand_win (f : Byte) (s : State) :
    (launchCommand f s).win = { s.win with fstat := launchedStatus f } := rfl

@[simp] theorem launchCommand_seq (f : Byte) (s : State) :
    (launchCommand f s).seq = s.seq := rfl

@[simp] theorem launchCommand_swp (f : Byte) (s : State) :
    (launchCommand f s).swp = s.swp := rfl

@[simp] theorem launchCommand_nvm (f : Byte) (s : State) :
    (launchCommand f s).nvm = { s.nvm with busy := true, cmd := s.win.fccob } := rfl

@[simp] theorem launchCommand_req (f : Byte) (s : State) :
    (launchCommand f s).req = s.req := rfl

@[simp] theorem launchCommand_port (f : Byte) (s : State) :
    (launchCommand f s).port = s.port := rfl

@[simp] theorem launchCommand_history (f : Byte) (s : State) :
    (launchCommand f s).history = s.history := rfl

@[simp] theorem launchCommand_inputs (f : Byte) (s : State) :
    (launchCommand f s).inputs = s.inputs := rfl

@[simp] theorem launchCommand_tick (f : Byte) (s : State) :
    (launchCommand f s).tick = s.tick := rfl

/-! ## Protection stores -/

@[simp] theorem storeFprot_cfg (i : Fin 4) (v : Byte) (s : State) :
    (storeFprot i v s).cfg = s.cfg := rfl

@[simp] theorem storeFprot_win (i : Fin 4) (v : Byte) (s : State) :
    (storeFprot i v s).win = { s.win with
      fprot := s.win.fprot.set i (protValue s.nvm.protMode (s.win.fprot.get i) v) } := rfl

@[simp] theorem storeFprot_seq (i : Fin 4) (v : Byte) (s : State) :
    (storeFprot i v s).seq = s.seq := rfl

@[simp] theorem storeFprot_swp (i : Fin 4) (v : Byte) (s : State) :
    (storeFprot i v s).swp = s.swp := rfl

@[simp] theorem storeFprot_nvm (i : Fin 4) (v : Byte) (s : State) :
    (storeFprot i v s).nvm = s.nvm := rfl

@[simp] theorem storeFprot_req (i : Fin 4) (v : Byte) (s : State) :
    (storeFprot i v s).req = s.req := rfl

@[simp] theorem storeFprot_port (i : Fin 4) (v : Byte) (s : State) :
    (storeFprot i v s).port = s.port := rfl

@[simp] theorem storeFprot_history (i : Fin 4) (v : Byte) (s : State) :
    (storeFprot i v s).history = s.history := rfl

@[simp] theorem storeFprot_inputs (i : Fin 4) (v : Byte) (s : State) :
    (storeFprot i v s).inputs = s.inputs := rfl

@[simp] theorem storeFprot_tick (i : Fin 4) (v : Byte) (s : State) :
    (storeFprot i v s).tick = s.tick := rfl

/-! ## storeFdprot -/

@[simp] theorem storeFdprot_cfg (v : Byte) (s : State) :
    (storeFdprot v s).cfg = s.cfg := rfl

@[simp] theorem storeFdprot_win (v : Byte) (s : State) :
    (storeFdprot v s).win = { s.win with fdprot := protValue s.nvm.protMode s.win.fdprot v } := rfl

@[simp] theorem storeFdprot_seq (v : Byte) (s : State) :
    (storeFdprot v s).seq = s.seq := rfl

@[simp] theorem storeFdprot_swp (v : Byte) (s : State) :
    (storeFdprot v s).swp = s.swp := rfl

@[simp] theorem storeFdprot_nvm (v : Byte) (s : State) :
    (storeFdprot v s).nvm = s.nvm := rfl

@[simp] theorem storeFdprot_req (v : Byte) (s : State) :
    (storeFdprot v s).req = s.req := rfl

@[simp] theorem storeFdprot_port (v : Byte) (s : State) :
    (storeFdprot v s).port = s.port := rfl

@[simp] theorem storeFdprot_history (v : Byte) (s : State) :
    (storeFdprot v s).history = s.history := rfl

@[simp] theorem storeFdprot_inputs (v : Byte) (s : State) :
    (storeFdprot v s).inputs = s.inputs := rfl

@[simp] theorem storeFdprot_tick (v : Byte) (s : State) :
    (storeFdprot v s).tick = s.tick := rfl

/-! ## storeFeprot -/

@[simp] theorem storeFeprot_cfg (v : Byte) (s : State) :
    (storeFeprot v s).cfg = s.cfg := rfl

@[simp] theorem storeFeprot_win (v : Byte) (s : State) :
    (storeFeprot v s).win = { s.win with feprot := protValue s.nvm.protMode s.win.feprot v } := rfl

@[simp] theorem storeFeprot_seq (v : Byte) (s : State) :
    (storeFeprot v s).seq = s.seq := rfl

@[simp] theorem storeFeprot_swp (v : Byte) (s : State) :
    (storeFeprot v s).swp = s.swp := rfl

@[simp] theorem storeFeprot_nvm (v : Byte) (s : State) :
    (storeFeprot v s).nvm = s.nvm := rfl

@[simp] theorem storeFeprot_req (v : Byte) (s : State) :
    (storeFeprot v s).req = s.req := rfl

@[simp] theorem storeFeprot_port (v : Byte) (s : State) :
    (storeFeprot v s).port = s.port := rfl

@[simp] theorem storeFeprot_history (v : Byte) (s : State) :
    (storeFeprot v s).history = s.history := rfl

@[simp] theorem storeFeprot_inputs (v : Byte) (s : State) :
    (storeFeprot v s).inputs = s.inputs := rfl

@[simp] theorem storeFeprot_tick (v : Byte) (s : State) :
    (storeFeprot v s).tick = s.tick := rfl

/-! ## storeFcnfg -/

@[simp] theorem storeFcnfg_cfg (s : State) :
    (storeFcnfg s).cfg = s.cfg := rfl

@[simp] theorem storeFcnfg_win (s : State) :
    (storeFcnfg s).win = { s.win with fcnfg := Config.freeFcnfg s.tick } := rfl

@[simp] theorem storeFcnfg_seq (s : State) :
    (storeFcnfg s).seq = s.seq := rfl

@[simp] theorem storeFcnfg_swp (s : State) :
    (storeFcnfg s).swp = s.swp := rfl

@[simp] theorem storeFcnfg_nvm (s : State) :
    (storeFcnfg s).nvm = s.nvm := rfl

@[simp] theorem storeFcnfg_req (s : State) :
    (storeFcnfg s).req = s.req := rfl

@[simp] theorem storeFcnfg_port (s : State) :
    (storeFcnfg s).port = s.port := rfl

@[simp] theorem storeFcnfg_history (s : State) :
    (storeFcnfg s).history = s.history := rfl

@[simp] theorem storeFcnfg_inputs (s : State) :
    (storeFcnfg s).inputs = s.inputs := rfl

@[simp] theorem storeFcnfg_tick (s : State) :
    (storeFcnfg s).tick = s.tick + 1 := rfl

/-! ## The floating bits of FSTAT -/

@[simp] theorem floatFstat_cfg (rsv : BitVec 3) (s : State) :
    (floatFstat rsv s).cfg = s.cfg := rfl

@[simp] theorem floatFstat_win (rsv : BitVec 3) (s : State) :
    (floatFstat rsv s).win = { s.win with fstat := floatReserved rsv s.win.fstat } := rfl

@[simp] theorem floatFstat_seq (rsv : BitVec 3) (s : State) :
    (floatFstat rsv s).seq = s.seq := rfl

@[simp] theorem floatFstat_swp (rsv : BitVec 3) (s : State) :
    (floatFstat rsv s).swp = s.swp := rfl

@[simp] theorem floatFstat_nvm (rsv : BitVec 3) (s : State) :
    (floatFstat rsv s).nvm = s.nvm := rfl

@[simp] theorem floatFstat_req (rsv : BitVec 3) (s : State) :
    (floatFstat rsv s).req = s.req := rfl

@[simp] theorem floatFstat_port (rsv : BitVec 3) (s : State) :
    (floatFstat rsv s).port = s.port := rfl

@[simp] theorem floatFstat_history (rsv : BitVec 3) (s : State) :
    (floatFstat rsv s).history = s.history := rfl

@[simp] theorem floatFstat_inputs (rsv : BitVec 3) (s : State) :
    (floatFstat rsv s).inputs = s.inputs := rfl

@[simp] theorem floatFstat_tick (rsv : BitVec 3) (s : State) :
    (floatFstat rsv s).tick = s.tick := rfl

/-! ## SWP -/

@[simp] theorem swpGoto_cfg (st : SwpState) (s : State) :
    (swpGoto st s).cfg = s.cfg := rfl

@[simp] theorem swpGoto_win (st : SwpState) (s : State) :
    (swpGoto st s).win = s.win := rfl

@[simp] theorem swpGoto_seq (st : SwpState) (s : State) :
    (swpGoto st s).seq = s.seq := rfl

@[simp] theorem swpGoto_swp (st : SwpState) (s : State) :
    (swpGoto st s).swp = { s.swp with call := .none, state := st } := rfl

@[simp] theorem swpGoto_nvm (st : SwpState) (s : State) :
    (swpGoto st s).nvm = s.nvm := rfl

@[simp] theorem swpGoto_req (st : SwpState) (s : State) :
    (swpGoto st s).req = s.req := rfl

@[simp] theorem swpGoto_port (st : SwpState) (s : State) :
    (swpGoto st s).port = s.port := rfl

@[simp] theorem swpGoto_history (st : SwpState) (s : State) :
    (swpGoto st s).history = s.history := rfl

@[simp] theorem swpGoto_inputs (st : SwpState) (s : State) :
    (swpGoto st s).inputs = s.inputs := rfl

@[simp] theorem swpGoto_tick (st : SwpState) (s : State) :
    (swpGoto st s).tick = s.tick := rfl

/-! ## SWP reads the swap state -/

@[simp] theorem swpReadMode_cfg (s : State) :
    (swpReadMode s).cfg = s.cfg := rfl

@[simp] theorem swpReadMode_win (s : State) :
    (swpReadMode s).win = s.win := rfl

@[simp] theorem swpReadMode_seq (s : State) :
    (swpReadMode s).seq = s.seq := rfl

@[simp] theorem swpReadMode_swp (s : State) :
    (swpReadMode s).swp = { s.swp with mode := s.win.fccob.get 5 } := rfl

@[simp] theorem swpReadMode_nvm (s : State) :
    (swpReadMode s).nvm = s.nvm := rfl

@[simp] theorem swpReadMode_req (s : State) :
    (swpReadMode s).req = s.req := rfl

@[simp] theorem swpReadMode_port (s : State) :
    (swpReadMode s).port = s.port := rfl

@[simp] theorem swpReadMode_history (s : State) :
    (swpReadMode s).history = .regRead .swp (.fccob 5) (regAddr s.cfg (.fccob 5)) (s.win.fccob.get 5) :: s.history := rfl

@[simp] theorem swpReadMode_inputs (s : State) :
    (swpReadMode s).inputs = s.inputs := rfl

@[simp] theorem swpReadMode_tick (s : State) :
    (swpReadMode s).tick = s.tick := rfl

/-! ## HOST -/

@[simp] theorem hostGoto_cfg (k : ReqCtl) (s : State) :
    (hostGoto k s).cfg = s.cfg := rfl

@[simp] theorem hostGoto_win (k : ReqCtl) (s : State) :
    (hostGoto k s).win = s.win := rfl

@[simp] theorem hostGoto_seq (k : ReqCtl) (s : State) :
    (hostGoto k s).seq = s.seq := rfl

@[simp] theorem hostGoto_swp (k : ReqCtl) (s : State) :
    (hostGoto k s).swp = s.swp := rfl

@[simp] theorem hostGoto_nvm (k : ReqCtl) (s : State) :
    (hostGoto k s).nvm = s.nvm := rfl

@[simp] theorem hostGoto_req (k : ReqCtl) (s : State) :
    (hostGoto k s).req = { s.req with ctl := k, call := .none } := rfl

@[simp] theorem hostGoto_port (k : ReqCtl) (s : State) :
    (hostGoto k s).port = s.port := rfl

@[simp] theorem hostGoto_history (k : ReqCtl) (s : State) :
    (hostGoto k s).history = s.history := rfl

@[simp] theorem hostGoto_inputs (k : ReqCtl) (s : State) :
    (hostGoto k s).inputs = s.inputs := rfl

@[simp] theorem hostGoto_tick (k : ReqCtl) (s : State) :
    (hostGoto k s).tick = s.tick := rfl

/-! ## HOST returns -/

@[simp] theorem hostReturn_cfg (r : ProcResult) (s : State) :
    (hostReturn r s).cfg = s.cfg := rfl

@[simp] theorem hostReturn_win (r : ProcResult) (s : State) :
    (hostReturn r s).win = s.win := rfl

@[simp] theorem hostReturn_seq (r : ProcResult) (s : State) :
    (hostReturn r s).seq = s.seq := rfl

@[simp] theorem hostReturn_swp (r : ProcResult) (s : State) :
    (hostReturn r s).swp = s.swp := rfl

@[simp] theorem hostReturn_nvm (r : ProcResult) (s : State) :
    (hostReturn r s).nvm = s.nvm := rfl

@[simp] theorem hostReturn_req (r : ProcResult) (s : State) :
    (hostReturn r s).req = { s.req with ctl := .idle, call := .none, ret := r } := rfl

@[simp] theorem hostReturn_port (r : ProcResult) (s : State) :
    (hostReturn r s).port = s.port := rfl

@[simp] theorem hostReturn_history (r : ProcResult) (s : State) :
    (hostReturn r s).history = .returned r :: s.history := rfl

@[simp] theorem hostReturn_inputs (r : ProcResult) (s : State) :
    (hostReturn r s).inputs = s.inputs := rfl

@[simp] theorem hostReturn_tick (r : ProcResult) (s : State) :
    (hostReturn r s).tick = s.tick := rfl

/-! ## HOST returns a code -/

@[simp] theorem hostReturnCode_cfg (r : Code) (s : State) :
    (hostReturnCode r s).cfg = s.cfg := rfl

@[simp] theorem hostReturnCode_win (r : Code) (s : State) :
    (hostReturnCode r s).win = s.win := rfl

@[simp] theorem hostReturnCode_seq (r : Code) (s : State) :
    (hostReturnCode r s).seq = s.seq := rfl

@[simp] theorem hostReturnCode_swp (r : Code) (s : State) :
    (hostReturnCode r s).swp = s.swp := rfl

@[simp] theorem hostReturnCode_nvm (r : Code) (s : State) :
    (hostReturnCode r s).nvm = s.nvm := rfl

@[simp] theorem hostReturnCode_req (r : Code) (s : State) :
    (hostReturnCode r s).req = { s.req with ctl := .idle, call := .none, ret := { code := r, failAddr := none, data := [] } } := rfl

@[simp] theorem hostReturnCode_port (r : Code) (s : State) :
    (hostReturnCode r s).port = s.port := rfl

@[simp] theorem hostReturnCode_history (r : Code) (s : State) :
    (hostReturnCode r s).history = .returned { code := r, failAddr := none, data := [] } :: s.history := rfl

@[simp] theorem hostReturnCode_inputs (r : Code) (s : State) :
    (hostReturnCode r s).inputs = s.inputs := rfl

@[simp] theorem hostReturnCode_tick (r : Code) (s : State) :
    (hostReturnCode r s).tick = s.tick := rfl

/-! ## A store to FSTAT -/

@[simp] theorem storeFstat_cfg (v : Byte) (s : State) :
    (storeFstat v s).cfg = s.cfg := by
  simp only [storeFstat]; split <;> rfl

@[simp] theorem storeFstat_seq (v : Byte) (s : State) :
    (storeFstat v s).seq = s.seq := by
  simp only [storeFstat]; split <;> rfl

@[simp] theorem storeFstat_swp (v : Byte) (s : State) :
    (storeFstat v s).swp = s.swp := by
  simp only [storeFstat]; split <;> rfl

@[simp] theorem storeFstat_req (v : Byte) (s : State) :
    (storeFstat v s).req = s.req := by
  simp only [storeFstat]; split <;> rfl

@[simp] theorem storeFstat_port (v : Byte) (s : State) :
    (storeFstat v s).port = s.port := by
  simp only [storeFstat]; split <;> rfl

@[simp] theorem storeFstat_history (v : Byte) (s : State) :
    (storeFstat v s).history = s.history := by
  simp only [storeFstat]; split <;> rfl

@[simp] theorem storeFstat_inputs (v : Byte) (s : State) :
    (storeFstat v s).inputs = s.inputs := by
  simp only [storeFstat]; split <;> rfl

@[simp] theorem storeFstat_tick (v : Byte) (s : State) :
    (storeFstat v s).tick = s.tick := by
  simp only [storeFstat]; split <;> rfl

/-! ## A store to FCCOB -/

@[simp] theorem storeFccob_cfg (i : Slot) (v : Byte) (s : State) :
    (storeFccob i v s).cfg = s.cfg := by
  unfold storeFccob; (repeat' split) <;> rfl

@[simp] theorem storeFccob_seq (i : Slot) (v : Byte) (s : State) :
    (storeFccob i v s).seq = s.seq := by
  unfold storeFccob; (repeat' split) <;> rfl

@[simp] theorem storeFccob_swp (i : Slot) (v : Byte) (s : State) :
    (storeFccob i v s).swp = s.swp := by
  unfold storeFccob; (repeat' split) <;> rfl

@[simp] theorem storeFccob_nvm (i : Slot) (v : Byte) (s : State) :
    (storeFccob i v s).nvm = s.nvm := by
  unfold storeFccob; (repeat' split) <;> rfl

@[simp] theorem storeFccob_req (i : Slot) (v : Byte) (s : State) :
    (storeFccob i v s).req = s.req := by
  unfold storeFccob; (repeat' split) <;> rfl

@[simp] theorem storeFccob_port (i : Slot) (v : Byte) (s : State) :
    (storeFccob i v s).port = s.port := by
  unfold storeFccob; (repeat' split) <;> rfl

@[simp] theorem storeFccob_history (i : Slot) (v : Byte) (s : State) :
    (storeFccob i v s).history = s.history := by
  unfold storeFccob; (repeat' split) <;> rfl

@[simp] theorem storeFccob_inputs (i : Slot) (v : Byte) (s : State) :
    (storeFccob i v s).inputs = s.inputs := by
  unfold storeFccob; (repeat' split) <;> rfl

@[simp] theorem storeFccob_tick (i : Slot) (v : Byte) (s : State) :
    (storeFccob i v s).tick = s.tick := by
  unfold storeFccob; (repeat' split) <;> rfl

/-! ## Waiting for an answer -/

@[simp] theorem awaitDone_cfg (s : State) :
    (awaitDone s).cfg = s.cfg := by
  unfold awaitDone; (repeat' split) <;> rfl

@[simp] theorem awaitDone_win (s : State) :
    (awaitDone s).win = s.win := by
  unfold awaitDone; (repeat' split) <;> rfl

@[simp] theorem awaitDone_seq (s : State) :
    (awaitDone s).seq = s.seq := by
  unfold awaitDone; (repeat' split) <;> rfl

@[simp] theorem awaitDone_nvm (s : State) :
    (awaitDone s).nvm = s.nvm := by
  unfold awaitDone; (repeat' split) <;> rfl

@[simp] theorem awaitDone_port (s : State) :
    (awaitDone s).port = s.port := by
  unfold awaitDone; (repeat' split) <;> rfl

@[simp] theorem awaitDone_history (s : State) :
    (awaitDone s).history = s.history := by
  unfold awaitDone; (repeat' split) <;> rfl

@[simp] theorem awaitDone_inputs (s : State) :
    (awaitDone s).inputs = s.inputs := by
  unfold awaitDone; (repeat' split) <;> rfl

@[simp] theorem awaitDone_tick (s : State) :
    (awaitDone s).tick = s.tick := by
  unfold awaitDone; (repeat' split) <;> rfl

/-! ## Acceptance -/

@[simp] theorem acceptExecute_cfg (n : Slot) (p : Slots) (s : State) :
    (acceptExecute n p s).cfg = s.cfg := by
  unfold acceptExecute awaitDone; (repeat' split) <;> rfl

@[simp] theorem acceptExecute_win (n : Slot) (p : Slots) (s : State) :
    (acceptExecute n p s).win = s.win := by
  unfold acceptExecute awaitDone; (repeat' split) <;> rfl

@[simp] theorem acceptExecute_seq (n : Slot) (p : Slots) (s : State) :
    (acceptExecute n p s).seq = { s.seq with n := n, buf := p, owner := s.port, state := .waitReady } := by
  unfold acceptExecute awaitDone; (repeat' split) <;> rfl

@[simp] theorem acceptExecute_nvm (n : Slot) (p : Slots) (s : State) :
    (acceptExecute n p s).nvm = s.nvm := by
  unfold acceptExecute awaitDone; (repeat' split) <;> rfl

@[simp] theorem acceptExecute_port (n : Slot) (p : Slots) (s : State) :
    (acceptExecute n p s).port = s.port := by
  unfold acceptExecute awaitDone; (repeat' split) <;> rfl

@[simp] theorem acceptExecute_history (n : Slot) (p : Slots) (s : State) :
    (acceptExecute n p s).history = s.history := by
  unfold acceptExecute awaitDone; (repeat' split) <;> rfl

@[simp] theorem acceptExecute_inputs (n : Slot) (p : Slots) (s : State) :
    (acceptExecute n p s).inputs = s.inputs := by
  unfold acceptExecute awaitDone; (repeat' split) <;> rfl

@[simp] theorem acceptExecute_tick (n : Slot) (p : Slots) (s : State) :
    (acceptExecute n p s).tick = s.tick := by
  unfold acceptExecute awaitDone; (repeat' split) <;> rfl

/-! ## An answer -/

@[simp] theorem deliver_cfg (o : Owner) (r : Code) (s : State) :
    (deliver o r s).cfg = s.cfg := by
  unfold deliver; (repeat' split) <;> rfl

@[simp] theorem deliver_win (o : Owner) (r : Code) (s : State) :
    (deliver o r s).win = s.win := by
  unfold deliver; (repeat' split) <;> rfl

@[simp] theorem deliver_seq (o : Owner) (r : Code) (s : State) :
    (deliver o r s).seq = s.seq := by
  unfold deliver; (repeat' split) <;> rfl

@[simp] theorem deliver_nvm (o : Owner) (r : Code) (s : State) :
    (deliver o r s).nvm = s.nvm := by
  unfold deliver; (repeat' split) <;> rfl

@[simp] theorem deliver_port (o : Owner) (r : Code) (s : State) :
    (deliver o r s).port = s.port := by
  unfold deliver; (repeat' split) <;> rfl

@[simp] theorem deliver_history (o : Owner) (r : Code) (s : State) :
    (deliver o r s).history = s.history := by
  unfold deliver; (repeat' split) <;> rfl

@[simp] theorem deliver_inputs (o : Owner) (r : Code) (s : State) :
    (deliver o r s).inputs = s.inputs := by
  unfold deliver; (repeat' split) <;> rfl

@[simp] theorem deliver_tick (o : Owner) (r : Code) (s : State) :
    (deliver o r s).tick = s.tick := by
  unfold deliver; (repeat' split) <;> rfl

/-! ## The debug break -/

@[simp] theorem breakIfDebug_cfg (f : Fsm) (s : State) :
    (breakIfDebug f s).cfg = s.cfg := by
  unfold breakIfDebug; (repeat' split) <;> rfl

@[simp] theorem breakIfDebug_win (f : Fsm) (s : State) :
    (breakIfDebug f s).win = s.win := by
  unfold breakIfDebug; (repeat' split) <;> rfl

@[simp] theorem breakIfDebug_nvm (f : Fsm) (s : State) :
    (breakIfDebug f s).nvm = s.nvm := by
  unfold breakIfDebug; (repeat' split) <;> rfl

@[simp] theorem breakIfDebug_req (f : Fsm) (s : State) :
    (breakIfDebug f s).req = s.req := by
  unfold breakIfDebug; (repeat' split) <;> rfl

@[simp] theorem breakIfDebug_port (f : Fsm) (s : State) :
    (breakIfDebug f s).port = s.port := by
  unfold breakIfDebug; (repeat' split) <;> rfl

@[simp] theorem breakIfDebug_inputs (f : Fsm) (s : State) :
    (breakIfDebug f s).inputs = s.inputs := by
  unfold breakIfDebug; (repeat' split) <;> rfl

@[simp] theorem breakIfDebug_tick (f : Fsm) (s : State) :
    (breakIfDebug f s).tick = s.tick := by
  unfold breakIfDebug; (repeat' split) <;> rfl

/-! ## The end of an operation -/

@[simp] theorem endOperation_cfg (f : Fsm) (o : Owner) (r : Code) (s : State) :
    (endOperation f o r s).cfg = s.cfg := by
  unfold endOperation breakIfDebug deliver State.emit; (repeat' split) <;> rfl

@[simp] theorem endOperation_win (f : Fsm) (o : Owner) (r : Code) (s : State) :
    (endOperation f o r s).win = s.win := by
  unfold endOperation breakIfDebug deliver State.emit; (repeat' split) <;> rfl

@[simp] theorem endOperation_nvm (f : Fsm) (o : Owner) (r : Code) (s : State) :
    (endOperation f o r s).nvm = s.nvm := by
  unfold endOperation breakIfDebug deliver State.emit; (repeat' split) <;> rfl

@[simp] theorem endOperation_port (f : Fsm) (o : Owner) (r : Code) (s : State) :
    (endOperation f o r s).port = s.port := by
  unfold endOperation breakIfDebug deliver State.emit; (repeat' split) <;> rfl

@[simp] theorem endOperation_inputs (f : Fsm) (o : Owner) (r : Code) (s : State) :
    (endOperation f o r s).inputs = s.inputs := by
  unfold endOperation breakIfDebug deliver State.emit; (repeat' split) <;> rfl

@[simp] theorem endOperation_tick (f : Fsm) (o : Owner) (r : Code) (s : State) :
    (endOperation f o r s).tick = s.tick := by
  unfold endOperation breakIfDebug deliver State.emit; (repeat' split) <;> rfl

/-! ## DebugResume -/

@[simp] theorem resumeFsm_cfg (f : Fsm) (s : State) :
    (resumeFsm f s).cfg = s.cfg := by
  unfold resumeFsm; (repeat' split) <;> rfl

@[simp] theorem resumeFsm_win (f : Fsm) (s : State) :
    (resumeFsm f s).win = s.win := by
  unfold resumeFsm; (repeat' split) <;> rfl

@[simp] theorem resumeFsm_nvm (f : Fsm) (s : State) :
    (resumeFsm f s).nvm = s.nvm := by
  unfold resumeFsm; (repeat' split) <;> rfl

@[simp] theorem resumeFsm_req (f : Fsm) (s : State) :
    (resumeFsm f s).req = s.req := by
  unfold resumeFsm; (repeat' split) <;> rfl

@[simp] theorem resumeFsm_port (f : Fsm) (s : State) :
    (resumeFsm f s).port = s.port := by
  unfold resumeFsm; (repeat' split) <;> rfl

@[simp] theorem resumeFsm_inputs (f : Fsm) (s : State) :
    (resumeFsm f s).inputs = s.inputs := by
  unfold resumeFsm; (repeat' split) <;> rfl

@[simp] theorem resumeFsm_tick (f : Fsm) (s : State) :
    (resumeFsm f s).tick = s.tick := by
  unfold resumeFsm; (repeat' split) <;> rfl

/-! ## A completion -/

@[simp] theorem nvmStep_cfg (o : NvmOutcome) (s : State) :
    (nvmStep o s).cfg = s.cfg := by
  unfold nvmStep; (repeat' split) <;> rfl

@[simp] theorem nvmStep_seq (o : NvmOutcome) (s : State) :
    (nvmStep o s).seq = s.seq := by
  unfold nvmStep; (repeat' split) <;> rfl

@[simp] theorem nvmStep_swp (o : NvmOutcome) (s : State) :
    (nvmStep o s).swp = s.swp := by
  unfold nvmStep; (repeat' split) <;> rfl

@[simp] theorem nvmStep_req (o : NvmOutcome) (s : State) :
    (nvmStep o s).req = s.req := by
  unfold nvmStep; (repeat' split) <;> rfl

@[simp] theorem nvmStep_port (o : NvmOutcome) (s : State) :
    (nvmStep o s).port = s.port := by
  unfold nvmStep; (repeat' split) <;> rfl

@[simp] theorem nvmStep_history (o : NvmOutcome) (s : State) :
    (nvmStep o s).history = s.history := by
  unfold nvmStep; (repeat' split) <;> rfl

@[simp] theorem nvmStep_inputs (o : NvmOutcome) (s : State) :
    (nvmStep o s).inputs = s.inputs := by
  unfold nvmStep; (repeat' split) <;> rfl

@[simp] theorem nvmStep_tick (o : NvmOutcome) (s : State) :
    (nvmStep o s).tick = s.tick := by
  unfold nvmStep; (repeat' split) <;> rfl

/-! ## The input is used up -/

@[simp] theorem consumeInput_cfg (s : State) :
    (consumeInput s).cfg = s.cfg := by
  unfold consumeInput; (repeat' split) <;> rfl

@[simp] theorem consumeInput_win (s : State) :
    (consumeInput s).win = s.win := by
  unfold consumeInput; (repeat' split) <;> rfl

@[simp] theorem consumeInput_seq (s : State) :
    (consumeInput s).seq = s.seq := by
  unfold consumeInput; (repeat' split) <;> rfl

@[simp] theorem consumeInput_swp (s : State) :
    (consumeInput s).swp = s.swp := by
  unfold consumeInput; (repeat' split) <;> rfl

@[simp] theorem consumeInput_nvm (s : State) :
    (consumeInput s).nvm = s.nvm := by
  unfold consumeInput; (repeat' split) <;> rfl

@[simp] theorem consumeInput_req (s : State) :
    (consumeInput s).req = s.req := by
  unfold consumeInput; (repeat' split) <;> rfl

@[simp] theorem consumeInput_port (s : State) :
    (consumeInput s).port = s.port := by
  unfold consumeInput; (repeat' split) <;> rfl

@[simp] theorem consumeInput_history (s : State) :
    (consumeInput s).history = s.history := by
  unfold consumeInput; (repeat' split) <;> rfl

/-! ## RegWrite of FSTAT -/

@[simp] theorem writeFstat_cfg (who : Agent) (v : Byte) (s : State) :
    (writeFstat who v s).cfg = s.cfg := by
  simp [writeFstat]

@[simp] theorem writeFstat_seq (who : Agent) (v : Byte) (s : State) :
    (writeFstat who v s).seq = s.seq := by
  simp [writeFstat]

@[simp] theorem writeFstat_swp (who : Agent) (v : Byte) (s : State) :
    (writeFstat who v s).swp = s.swp := by
  simp [writeFstat]

@[simp] theorem writeFstat_req (who : Agent) (v : Byte) (s : State) :
    (writeFstat who v s).req = s.req := by
  simp [writeFstat]

@[simp] theorem writeFstat_port (who : Agent) (v : Byte) (s : State) :
    (writeFstat who v s).port = s.port := by
  simp [writeFstat]

@[simp] theorem writeFstat_history (who : Agent) (v : Byte) (s : State) :
    (writeFstat who v s).history = .regWrite who .fstat (regAddr s.cfg .fstat) v :: s.history := by
  simp [writeFstat]

@[simp] theorem writeFstat_inputs (who : Agent) (v : Byte) (s : State) :
    (writeFstat who v s).inputs = s.inputs := by
  simp [writeFstat]

@[simp] theorem writeFstat_tick (who : Agent) (v : Byte) (s : State) :
    (writeFstat who v s).tick = s.tick := by
  simp [writeFstat]

/-! ## RegWrite of FCCOB -/

@[simp] theorem writeFccob_cfg (who : Agent) (i : Slot) (v : Byte) (s : State) :
    (writeFccob who i v s).cfg = s.cfg := by
  simp [writeFccob]

@[simp] theorem writeFccob_seq (who : Agent) (i : Slot) (v : Byte) (s : State) :
    (writeFccob who i v s).seq = s.seq := by
  simp [writeFccob]

@[simp] theorem writeFccob_swp (who : Agent) (i : Slot) (v : Byte) (s : State) :
    (writeFccob who i v s).swp = s.swp := by
  simp [writeFccob]

@[simp] theorem writeFccob_nvm (who : Agent) (i : Slot) (v : Byte) (s : State) :
    (writeFccob who i v s).nvm = s.nvm := by
  simp [writeFccob]

@[simp] theorem writeFccob_req (who : Agent) (i : Slot) (v : Byte) (s : State) :
    (writeFccob who i v s).req = s.req := by
  simp [writeFccob]

@[simp] theorem writeFccob_port (who : Agent) (i : Slot) (v : Byte) (s : State) :
    (writeFccob who i v s).port = s.port := by
  simp [writeFccob]

@[simp] theorem writeFccob_history (who : Agent) (i : Slot) (v : Byte) (s : State) :
    (writeFccob who i v s).history = .regWrite who (.fccob i) (regAddr s.cfg (.fccob i)) v :: s.history := by
  simp [writeFccob]

@[simp] theorem writeFccob_inputs (who : Agent) (i : Slot) (v : Byte) (s : State) :
    (writeFccob who i v s).inputs = s.inputs := by
  simp [writeFccob]

@[simp] theorem writeFccob_tick (who : Agent) (i : Slot) (v : Byte) (s : State) :
    (writeFccob who i v s).tick = s.tick := by
  simp [writeFccob]

end Sys2Proof.Machine
end

