-- ==== Sys2Proof/Laws/Ops.lean ====
section
/-! SUPPORT. What each shared operation can do, said once. -/

namespace Sys2Proof.Machine

/-! ## Steps and runs -/

/-- A listed input is the one the step takes. -/
theorem step_of_inputs {s : State} {i : Input} {t : List Input} (h : s.inputs = i :: t) :
    step s = stepInput i { s with inputs := t } := by
  simp [step, nextInput, consumeInput, h]

/-- Every step is a step with some input, on a state that differs in the model's own fields alone. -/
theorem step_is_stepInput (s : State) :
    ∃ i s', step s = stepInput i s' ∧ s' = { s with inputs := s'.inputs, tick := s'.tick } := by
  refine ⟨nextInput s, consumeInput s, rfl, ?_⟩
  unfold consumeInput
  split <;> rfl

@[simp] theorem runInputs_nil (s : State) : runInputs [] s = .next s := rfl

theorem runInputs_cons_next {i : Input} {l : List Input} {s t : State} (h : stepInput i s = .next t) :
    runInputs (i :: l) s = runInputs l t := by
  simp [runInputs, h]

theorem runInputs_append_next : ∀ {a b : List Input} {s t : State}, runInputs a s = .next t →
    runInputs (a ++ b) s = runInputs b t
  | [], _, _, _, h => by cases h; rfl
  | i :: a, b, s, t, h => by
    rw [List.cons_append]
    cases hi : stepInput i s <;> simp only [runInputs, hi] at h ⊢
    · exact runInputs_append_next h
    · cases h
    · cases h

theorem makes_nil {ins : List Input} : makes ins [] ↔ ins = [] := by
  simp [makes]

theorem makes_cons {ins : List Input} {m : Move} {ms : List Move} :
    makes ins (m :: ms) ↔ ∃ rsv t, ins = { rsv := rsv, move := m } :: t ∧ makes t ms := by
  cases ins with
  | nil => simp [makes]
  | cons i t =>
    cases i with
    | mk r v => simp [makes, and_comm]

theorem makes_append {ins : List Input} {a b : List Move} :
    makes ins (a ++ b) ↔ ∃ x y, ins = x ++ y ∧ makes x a ∧ makes y b := by
  simp [makes, List.map_eq_append_iff]

/-! ## Acceptance -/

theorem portOpen_iff {s : State} : portOpen s = true ↔
    s.seq.state = .idle ∧ s.seq.halted = false ∧ (s.port = .swp ↔ s.swp.state ≠ .idle) := by
  simp only [portOpen, Bool.and_eq_true, beq_iff_eq, Bool.not_eq_true', and_assoc]
  cases s.port <;> cases s.swp.state <;> simp <;> (intros; decide)

/-- An offer is accepted or does nothing; it never stops. -/
theorem offerObject_cases (k : CommandObject) (s : State) :
    (portOpen s = true ∧ offerObject k s = .next (acceptExecute k.n k.p s)) ∨
    (portOpen s = false ∧ offerObject k s = .next s) := by
  unfold offerObject
  cases h : portOpen s <;> simp

/-- The command object of an instruction (R126), where it has one. -/
def commandObject (cfg : Config) : Instr → Option CommandObject
  | .verifyBlock a margin => some (objVerifyBlock cfg a margin)
  | .verifySection a count margin => some (objVerifySection cfg a count margin)
  | .programCheck a margin v => some (objProgramCheck cfg a margin v)
  | .readResource a sel => some (objReadResource cfg a sel)
  | .programLongword a v => some (objProgramLongword cfg a v)
  | .programPhrase a v w => some (objProgramPhrase cfg a v w)
  | .eraseBlock a => some (objEraseBlock cfg a)
  | .eraseSector a => some (objEraseSector cfg a)
  | .programSection a count => some (objProgramSection cfg a count)
  | .verifyAllBlock margin => some (objVerifyAllBlock cfg margin)
  | .readOnce index => some (objReadOnce cfg index)
  | .programOnce index v => some (objProgramOnce cfg index v)
  | .eraseAllBlock => some (objEraseAllBlock cfg)
  | .securityBypass key => some (objSecurityBypass cfg key)
  | .pFlashSwap a code => some (objPFlashSwap cfg a code)
  | .pFlashSwapReportStatus a => some (objPFlashSwap cfg a cfg.swapCode.report)
  | .pFlashSwapSetIndicatorAddress a => some (objPFlashSwap cfg a cfg.swapCode.setInd)
  | .pFlashSwapSetInPrepare a => some (objPFlashSwap cfg a cfg.swapCode.setPrep)
  | .pFlashSwapSetInComplete a => some (objPFlashSwap cfg a cfg.swapCode.setComp)
  | .eraseAllBlockUnsecure => some (objEraseAllBlockUnsecure cfg)
  | .programPartition eee depart => some (objProgramPartition cfg eee depart)
  | .setEERAM ctl => some (objSetEERAM cfg ctl)
  | .execute n p => if h : n.toNat < 12 then some ⟨⟨n.toNat, h⟩, p⟩ else none
  | .swap _ => none

/-- exec of any instruction with a command object is the offer of that object. -/
theorem exec_of_commandObject {i : Instr} {s : State} {k : CommandObject}
    (h : commandObject s.cfg i = some k) : exec i s = offerObject k s := by
  cases i
  case execute n p =>
    simp only [commandObject] at h
    split at h
    · obtain rfl := Option.some.inj h
      simp_all [exec, execExecute]
    · cases h
  case swap => cases h
  all_goals
    obtain rfl := Option.some.inj h
    rfl

/-- Every instruction but SWAP and an EXECUTE with a count above 11 has a command object. -/
theorem exists_commandObject (cfg : Config) {i : Instr} (hs : ∀ a, i ≠ .swap a)
    (hx : ∀ n p, i = .execute n p → n.toNat ≤ 11) : ∃ k, commandObject cfg i = some k := by
  cases i
  case execute n p =>
    have := hx n p rfl
    exact ⟨_, dif_pos (by omega)⟩
  case swap a => exact absurd rfl (hs a)
  all_goals exact ⟨_, rfl⟩

/-- A SWAP is accepted or does nothing. -/
theorem execSwap_cases (addr : Addr) (s : State) :
    (swapOpen s = true ∧ execSwap addr s
      = .next (awaitDone { s with swp := { s.swp with addr := addr, state := .check } })) ∨
    (swapOpen s = false ∧ execSwap addr s = .next s) := by
  unfold execSwap
  cases h : swapOpen s <;> simp

/-! ## Register writes -/

/-- A store to FSTAT launches or only clears. -/
theorem storeFstat_cases (v : Byte) (s : State) :
    (launches (clearErrors s.win.fstat v) v = true ∧
      storeFstat v s = launchCommand (clearErrors s.win.fstat v) s) ∨
    (launches (clearErrors s.win.fstat v) v = false ∧
      storeFstat v s = { s with win := { s.win with fstat := clearErrors s.win.fstat v } }) := by
  simp only [storeFstat]
  cases h : launches (clearErrors s.win.fstat v) v <;> simp

/-- What a HOST write can do when it goes on. -/
theorem hostWrite_next {r : Reg} {v : Byte} {s t : State} (h : hostWrite r v s = .next t) :
    s.serving = false ∧
      ((r = .fstat ∧ t = writeFstat .host v s) ∨
       (r = .fcnfg ∧ t = storeFcnfg (logWrite .host r v s)) ∨
       (∃ i, r = .fccob i ∧ s.ccif = true ∧ t = writeFccob .host i v s) ∨
       (∃ i, r = .fprot i ∧ s.ccif = true ∧ t = storeFprot i v (logWrite .host r v s)) ∨
       (r = .fdprot ∧ s.ccif = true ∧ t = storeFdprot v (logWrite .host r v s)) ∨
       (r = .feprot ∧ s.ccif = true ∧ t = storeFeprot v (logWrite .host r v s))) := by
  cases r <;> simp only [hostWrite] at h <;> (repeat' split at h) <;> simp_all

/-! ## Reads by address -/

/-- The block numbers from that of `lo` to that of `hi` are the numbers of the bytes from `lo` to `hi`. -/
theorem div_between (p lo hi x : Nat) (h : lo ≤ hi) :
    (lo / p ≤ x / p ∧ x / p ≤ hi / p) ↔ ∃ y, lo ≤ y ∧ y ≤ hi ∧ y / p = x / p := by
  constructor
  · rintro ⟨h1, h2⟩
    rcases Nat.eq_zero_or_pos p with rfl | hp
    · exact ⟨lo, Nat.le_refl _, h, by simp⟩
    · by_cases hl : lo / p = x / p
      · exact ⟨lo, Nat.le_refl _, h, hl⟩
      · have h3 : (lo / p + 1) * p ≤ x / p * p := Nat.mul_le_mul_right _ (by omega)
        have h4 := Nat.lt_mul_div_succ lo hp
        rw [Nat.mul_comm] at h4
        exact ⟨x / p * p, by omega, (Nat.le_div_iff_mul_le hp).mp h2, Nat.mul_div_cancel _ hp⟩
  · rintro ⟨y, h1, h2, h3⟩
    exact h3 ▸ ⟨Nat.div_le_div_right h1, Nat.div_le_div_right h2⟩

/-- `onBlocks` says that one of the bytes lies in `x`'s block of `x`'s region (R9, R106). -/
theorem onBlocks_iff (cfg : Config) (a n x : Nat) : onBlocks cfg a n x = true ↔
    ∃ y, a ≤ y ∧ y < a + max n 1 ∧
      ((y < dflashInternal ∧ x < dflashInternal ∧
          y / cfg.pblockSize.toNat = x / cfg.pblockSize.toNat) ∨
        (dflashInternal ≤ y ∧ dflashInternal ≤ x ∧
          (y - dflashInternal) / cfg.dblockSize.toNat
            = (x - dflashInternal) / cfg.dblockSize.toNat)) := by
  unfold onBlocks
  generalize cfg.pblockSize.toNat = p
  generalize cfg.dblockSize.toNat = d
  generalize dflashInternal = b
  by_cases hx : x < b
  · simp only [hx, if_true, Bool.and_eq_true, decide_eq_true_eq, Nat.sub_zero]
    constructor
    · rintro ⟨h1, h2, h3⟩
      have h4 : x / p ≤ min (a + (n - 1)) (b - 1) / p := by
        rcases Nat.le_total (a + (n - 1)) (b - 1) with q | q
        · rwa [Nat.min_eq_left q]
        · rw [Nat.min_eq_right q]
          exact Nat.div_le_div_right (by omega)
      obtain ⟨y, e1, e2, e3⟩ := (div_between p a _ x (by omega)).mp ⟨h2, h4⟩
      exact ⟨y, e1, by omega, .inl ⟨by omega, trivial, e3⟩⟩
    · rintro ⟨y, h1, h2, ⟨h3, -, h5⟩ | ⟨-, h, -⟩⟩
      · exact ⟨by omega, (div_between p a _ x (by omega)).mpr ⟨y, h1, by omega, h5⟩⟩
      · omega
  · simp only [hx, if_false, Bool.and_eq_true, decide_eq_true_eq]
    constructor
    · rintro ⟨h1, h2⟩
      obtain ⟨y, e1, e2, e3⟩ := (div_between d _ _ _ (by omega)).mp h2
      exact ⟨y + b, by omega, by omega, .inr ⟨by omega, by omega, by simpa using e3⟩⟩
    · rintro ⟨y, h1, h2, ⟨-, h, -⟩ | ⟨h3, -, h5⟩⟩
      · exact h.elim
      · exact ⟨by omega, (div_between d _ _ _ (by omega)).mpr ⟨y - b, by omega, by omega, h5⟩⟩

/-- What a read or fetch at an address where no register is can do when it goes on: it records the byte. -/
theorem arrayRead_next {addr : Addr} {s t : State} (h : arrayRead addr s = .next t) :
    ∃ x, translate s.cfg .progErase addr.toNat 1 = some x ∧
      (s.nvm.busy = false ∨ commandOnBlock s.cfg s.nvm.cmd x = false) ∧
      t = s.emit (.arrayRead addr (Memory.read s.nvm.flash x)) := by
  unfold arrayRead at h
  split at h
  · rename_i x hx
    unfold arrayByte at h
    split at h
    · cases h
    · rename_i hb
      refine ⟨x, hx, ?_, by cases h; rfl⟩
      cases hs : s.nvm.busy <;> simp_all
  · split at h <;> cases h

/-- What HOST's read by address can do when it goes on: a register's read with nothing being served, or an array
byte's. -/
theorem hostMemRead_next {addr : Addr} {s t : State} (h : hostMemRead addr s = .next t) :
    (∃ r, regAt s.cfg addr = some r ∧ s.serving = false ∧ t = logRead .host r s) ∨
      (regAt s.cfg addr = none ∧ arrayRead addr s = .next t) := by
  unfold hostMemRead at h
  split at h
  · rename_i r hr
    unfold hostRead at h
    split at h
    · cases h
    · rename_i hs
      exact .inl ⟨r, hr, by simpa using hs, by cases h; rfl⟩
  · exact .inr ⟨by assumption, h⟩

/-- The callback goes on only by returning, or by reading an array byte. -/
theorem cbStep_next {m : CbMove} {s t : State} (hc : s.seq.state = .cbWait) (h : cbStep m s = .next t) :
    (m = .ret ∧ t = ({ s with seq := { s.seq with state := .poll } }).emit .callbackReturn) ∨
      (∃ addr, m = .arrayRead addr ∧ regAt s.cfg addr = none ∧ arrayRead addr s = .next t) := by
  cases m <;> simp only [cbStep, hc, beq_self_eq_true, if_true, callbackMemRead] at h
  case ret => cases h; exact .inl ⟨rfl, rfl⟩
  case arrayRead addr =>
    split at h
    · cases h
    · exact .inr ⟨addr, rfl, by assumption, h⟩
  all_goals cases h

/-- What FlashInit's store can do when it goes on: it writes the two sizes and ends, and in a run in which an
earlier FlashInit has fixed the configuration it leaves that as it is. -/
theorem initStore_next {code : Code} {dflash eee : Addr} {s t : State}
    (h : initStore code dflash eee s = .next t) :
    t = hostReturnCode code
        { s with
          cfg := { s.cfg with dflashSize := dflash, eeeSize := eee }
          req := { s.req with initDone := true } } ∧
      t.req.initDone = true ∧ (s.req.initDone = true → t.cfg = s.cfg) := by
  unfold initStore at h
  split at h
  · cases h
  · rename_i hc
    cases h
    refine ⟨rfl, rfl, fun hd => ?_⟩
    simp_all [hostReturnCode, hostReturn, State.emit]

/-! ## The ends of operations -/

/-- The end of an operation: the answer, the `Done` event, and with P_DEBUG_ENABLE the break. -/
theorem endOperation_history (f : Fsm) (o : Owner) (r : Code) (s : State) :
    (endOperation f o r s).history
      = (if s.cfg.debugEnable then [.debugBreak f] else []) ++ (.done f o r :: s.history) := by
  cases f <;> cases o <;> cases h : s.cfg.debugEnable <;>
    simp [endOperation, breakIfDebug, deliver, h]

/-- The answer reaches the request of its owner. -/
theorem endOperation_answers (f : Fsm) (r : Code) (s : State) :
    (endOperation f .host r s).req.call = .done r ∧ (endOperation f .swp r s).swp.call = .done r := by
  cases f <;> cases h : s.cfg.debugEnable <;> simp [endOperation, breakIfDebug, deliver, h]

/-- Of SEQ the end of an operation changes at most the halt. -/
theorem endOperation_seq (f : Fsm) (o : Owner) (r : Code) (s : State) :
    (endOperation f o r s).seq
      = { s.seq with halted := s.seq.halted || (f == .seq && s.cfg.debugEnable) } := by
  cases f <;> cases o <;> cases h : s.cfg.debugEnable <;>
    simp [endOperation, breakIfDebug, deliver, h, show (Fsm.swp == Fsm.seq) = false from rfl]

/-- A state of SWP that has a command in SEQ offers it, waits, goes on, or finishes. -/
theorem swpCommand_cases (offer : State → Result) (next : SwpState) (s : State) :
    (s.swp.call = .none ∧ swpCommand offer next s = offer { s with port := .swp }) ∨
    (s.swp.call = .inFlight ∧ swpCommand offer next s = .next s) ∨
    (s.swp.call = .done 0 ∧ swpCommand offer next s = .next (swpGoto next s)) ∨
    (∃ r, r ≠ 0 ∧ s.swp.call = .done r ∧ swpCommand offer next s = .next (swpFinish r s)) := by
  unfold swpCommand
  cases h : s.swp.call with
  | none => simp
  | inFlight => simp
  | done r =>
    by_cases hr : r = codeSuccess
    · subst hr; simp [codeSuccess]
    · exact .inr (.inr (.inr ⟨r, hr, rfl, by simp [hr]⟩))

end Sys2Proof.Machine
end

