-- ==== Sys2Proof/Laws/PerInstr.lean ====
section
/-! SUPPORT. What holds of every instruction as syntax, constructor by constructor. -/

namespace Sys2Proof.Laws

open Machine

/-- The encoding of a well-formed instruction is a request the block admits (R133, R151): an EXECUTE with
`n <= 11`, or the SWAP itself. -/
def EncodeAdmitted.Statement (i : Instr) : Prop :=
  ∀ cfg : Config, i.wf cfg = true →
    match encode cfg i with
    | .execute n _ => n.toNat ≤ 11
    | .swap addr => i = .swap addr

/-- The count of a command object fits the request's four bits. -/
theorem requestOf_admitted (c : CommandObject) : (BitVec.ofNat 4 c.n.val).toNat ≤ 11 := by
  have := c.n.isLt
  simp only [BitVec.toNat_ofNat]
  omega

theorem EncodeAdmitted.verifyBlock (a : IAddr) (margin : Byte) :
    EncodeAdmitted.Statement (.verifyBlock a margin) := fun _ _ => requestOf_admitted _

theorem EncodeAdmitted.verifySection (a : IAddr) (count : BitVec 16) (margin : Byte) :
    EncodeAdmitted.Statement (.verifySection a count margin) := fun _ _ => requestOf_admitted _

theorem EncodeAdmitted.programCheck (a : IAddr) (margin : Byte) (expected : BitVec 32) :
    EncodeAdmitted.Statement (.programCheck a margin expected) := fun _ _ => requestOf_admitted _

theorem EncodeAdmitted.readResource (a : IAddr) (sel : Byte) :
    EncodeAdmitted.Statement (.readResource a sel) := fun _ _ => requestOf_admitted _

theorem EncodeAdmitted.programLongword (a : IAddr) (v : BitVec 32) :
    EncodeAdmitted.Statement (.programLongword a v) := fun _ _ => requestOf_admitted _

theorem EncodeAdmitted.programPhrase (a : IAddr) (v0 v1 : BitVec 32) :
    EncodeAdmitted.Statement (.programPhrase a v0 v1) := fun _ _ => requestOf_admitted _

theorem EncodeAdmitted.eraseBlock (a : IAddr) :
    EncodeAdmitted.Statement (.eraseBlock a) := fun _ _ => requestOf_admitted _

theorem EncodeAdmitted.eraseSector (a : IAddr) :
    EncodeAdmitted.Statement (.eraseSector a) := fun _ _ => requestOf_admitted _

theorem EncodeAdmitted.programSection (a : IAddr) (count : BitVec 16) :
    EncodeAdmitted.Statement (.programSection a count) := fun _ _ => requestOf_admitted _

theorem EncodeAdmitted.verifyAllBlock (margin : Byte) :
    EncodeAdmitted.Statement (.verifyAllBlock margin) := fun _ _ => requestOf_admitted _

theorem EncodeAdmitted.readOnce (index : Byte) :
    EncodeAdmitted.Statement (.readOnce index) := fun _ _ => requestOf_admitted _

theorem EncodeAdmitted.programOnce (index : Byte) (v : BitVec 32) :
    EncodeAdmitted.Statement (.programOnce index v) := fun _ _ => requestOf_admitted _

theorem EncodeAdmitted.eraseAllBlock :
    EncodeAdmitted.Statement (.eraseAllBlock) := fun _ _ => requestOf_admitted _

theorem EncodeAdmitted.securityBypass (key : Vector Byte 8) :
    EncodeAdmitted.Statement (.securityBypass key) := fun _ _ => requestOf_admitted _

theorem EncodeAdmitted.pFlashSwap (a : IAddr) (code : Byte) :
    EncodeAdmitted.Statement (.pFlashSwap a code) := fun _ _ => requestOf_admitted _

theorem EncodeAdmitted.pFlashSwapReportStatus (a : IAddr) :
    EncodeAdmitted.Statement (.pFlashSwapReportStatus a) := fun _ _ => requestOf_admitted _

theorem EncodeAdmitted.pFlashSwapSetIndicatorAddress (a : IAddr) :
    EncodeAdmitted.Statement (.pFlashSwapSetIndicatorAddress a) := fun _ _ => requestOf_admitted _

theorem EncodeAdmitted.pFlashSwapSetInPrepare (a : IAddr) :
    EncodeAdmitted.Statement (.pFlashSwapSetInPrepare a) := fun _ _ => requestOf_admitted _

theorem EncodeAdmitted.pFlashSwapSetInComplete (a : IAddr) :
    EncodeAdmitted.Statement (.pFlashSwapSetInComplete a) := fun _ _ => requestOf_admitted _

theorem EncodeAdmitted.eraseAllBlockUnsecure :
    EncodeAdmitted.Statement (.eraseAllBlockUnsecure) := fun _ _ => requestOf_admitted _

theorem EncodeAdmitted.programPartition (eeeCode departCode : Byte) :
    EncodeAdmitted.Statement (.programPartition eeeCode departCode) := fun _ _ => requestOf_admitted _

theorem EncodeAdmitted.setEERAM (ctl : Byte) :
    EncodeAdmitted.Statement (.setEERAM ctl) := fun _ _ => requestOf_admitted _

theorem EncodeAdmitted.execute (n : BitVec 4) (p : Slots) :
    EncodeAdmitted.Statement (.execute n p) := by
  intro cfg h
  simp only [Instr.wf, Bool.and_eq_true, decide_eq_true_eq] at h
  exact h.1

theorem EncodeAdmitted.swap (addr : Addr) :
    EncodeAdmitted.Statement (.swap addr) := fun _ _ => rfl

end Sys2Proof.Laws
end

