-- ==== Sys2Proof/Laws/Premises.lean ====
section
/-! SUPPORT. What the premises on the environment give: the nominal swap controller (R240) and a callback that
meets R163. -/

namespace Sys2Proof.Machine

/-! ## The nominal swap controller -/

/-- The swap state after a nominal completion is the one of the table's row, and the old one where there is no
row. -/
theorem nominal_after {cfg : Config} {ind : IAddr} {cmd : Slots} {st : SwapState} {o : NvmOutcome}
    (h : nominal cfg ind cmd st o = true) :
    swapStateAfter cfg cmd o st = ((nominalRow cfg ind cmd st).map NominalRow.after).getD st := by
  unfold nominal at h
  split at h <;> rename_i hr <;> simp_all

/-- Every row of the table leaves the swap state or moves it to the next one (R240). -/
theorem nominalRow_after {cfg : Config} {ind : IAddr} {cmd : Slots} {st : SwapState} {r : NominalRow}
    (h : nominalRow cfg ind cmd st = some r) :
    r.after = st ∨ (st, r.after) ∈ [(SwapState.uninitialized, SwapState.ready), (.ready, .update),
      (.update, .updateErased), (.updateErased, .complete)] := by
  simp only [nominalRow] at h
  (repeat' split at h) <;> cases h <;> simp [*]

/-- No nominal completion leaves Complete (93 I33). -/
theorem nominal_complete {cfg : Config} {ind : IAddr} {cmd : Slots} {o : NvmOutcome}
    (h : nominal cfg ind cmd .complete o = true) : swapStateAfter cfg cmd o .complete = .complete := by
  rw [nominal_after h]
  cases hr : nominalRow cfg ind cmd .complete with
  | none => rfl
  | some r => simpa using nominalRow_after hr

/-! ## The callback -/

/-- Where P_CALLBACK meets R163, so does the input of the next step. -/
theorem State.CallbackMeets.nextInput {ins : List Input} {s : State} (h : s.CallbackMeets ins) :
    callbackKeeps s.cfg (nextInput s).move = true := by
  unfold Machine.nextInput
  split
  · exact h.free _ (Nat.le_refl _)
  · rename_i i t hi
    exact h.listed i (by simp [hi])

/-- A callback's move that keeps R163 is no ConcurrentAccess. -/
theorem cbStep_keeps {m : CbMove} {s : State} (h : callbackKeeps s.cfg (.cb m) = true) :
    cbStep m s ≠ .fault .concurrentAccess := by
  unfold cbStep
  split
  · cases m with
    | ret => simp
    | arrayRead addr =>
      simp only [callbackKeeps, Option.isNone_iff_eq_none] at h
      simp only [callbackMemRead, h, arrayRead, arrayByte]
      (repeat' split) <;> simp
    | access r => simp [callbackKeeps] at h
    | request r => simp [callbackKeeps] at h
  · simp

end Sys2Proof.Machine
end

