-- ==== Sys2Proof/Laws/Seq.lean ====
section
/-! SUPPORT. SEQ's steps as equations, and its LOAD loop, said once. -/

namespace Sys2Proof.Machine

/-! ## Events and accesses -/

@[simp] theorem accesses_nil : accesses [] = [] := rfl

theorem accesses_append (a b : List Event) : accesses (a ++ b) = accesses b ++ accesses a := by
  simp [accesses]

theorem accesses_cons (e : Event) (h : List Event) : accesses (e :: h) = accesses h ++ accesses [e] :=
  accesses_append [e] h

@[simp] theorem accesses_read (who : Agent) (r : Reg) (a : Addr) (v : Byte) :
    accesses [.regRead who r a v] = [.read r] := rfl

@[simp] theorem accesses_write (who : Agent) (r : Reg) (a : Addr) (v : Byte) :
    accesses [.regWrite who r a v] = [.write r v] := rfl

theorem accessCount_append (a b : List Event) : accessCount (a ++ b) = accessCount a + accessCount b := by
  simp [accessCount]

/-! ## One step of SEQ -/

@[simp] theorem State.ccif_floatFstat (rsv : BitVec 3) (s : State) : (floatFstat rsv s).ccif = s.ccif := by
  simp [State.ccif]

/-- A step of SEQ that is not halted is the step of its state, on the state with the reserved bits drawn. -/
theorem stepInput_seq (rsv : BitVec 3) (s : State) :
    stepInput { rsv := rsv, move := .seq } s = .next (seqStep (floatFstat rsv s)) := rfl

theorem seqStep_waitReady {s : State} (h : s.seq.state = .waitReady) (hh : s.seq.halted = false) :
    seqStep s = seqWaitReady s := by simp [seqStep, h, hh]

theorem seqStep_clearErr {s : State} (h : s.seq.state = .clearErr) (hh : s.seq.halted = false) :
    seqStep s = seqClearErr s := by simp [seqStep, h, hh]

theorem seqStep_load {s : State} (h : s.seq.state = .load) (hh : s.seq.halted = false) :
    seqStep s = seqLoad s := by simp [seqStep, h, hh]

theorem seqStep_launch {s : State} (h : s.seq.state = .launch) (hh : s.seq.halted = false) :
    seqStep s = seqLaunch s := by simp [seqStep, h, hh]

theorem seqStep_poll {s : State} (h : s.seq.state = .poll) (hh : s.seq.halted = false) :
    seqStep s = seqPoll s := by simp [seqStep, h, hh]

theorem seqStep_decode {s : State} (h : s.seq.state = .decode) (hh : s.seq.halted = false) :
    seqStep s = seqDecode s := by simp [seqStep, h, hh]

/-! ## The LOAD loop -/

/-- The slots `k..n` in order. -/
def slotsFrom (k n : Slot) : List Slot :=
  allSlots.filter fun j => decide (k.val ≤ j.val ∧ j.val ≤ n.val)

theorem slotsFrom_self (n : Slot) : slotsFrom n n = [n] := by
  revert n; decide

theorem slotsFrom_lt {k n : Slot} (h : k.val < n.val) :
    slotsFrom k n = k :: slotsFrom ⟨k.val + 1, by omega⟩ n := by
  revert k n; decide

theorem slotsFrom_zero (n : Slot) : slotsFrom 0 n = allSlots.filter fun j => decide (j.val ≤ n.val) := by
  simp [slotsFrom]

/-- One LOAD step with CCIF = 1: its slot is written, and SEQ goes to the next slot or to LAUNCH. -/
theorem stepInput_load (rsv : BitVec 3) {s : State} (hs : s.seq.state = .load) (hh : s.seq.halted = false)
    (hc : s.ccif = true) :
    stepInput { rsv := rsv, move := .seq } s = .next { s with
      seq := (if h : s.seq.k.val < s.seq.n.val then
          { s.seq with k := ⟨s.seq.k.val + 1, by omega⟩, state := .load }
        else { s.seq with state := .launch })
      win := { s.win with
        fstat := floatReserved rsv s.win.fstat
        fccob := s.win.fccob.set s.seq.k (s.seq.buf.get s.seq.k) }
      history := .regWrite .seq (.fccob s.seq.k) (regAddr s.cfg (.fccob s.seq.k))
        (s.seq.buf.get s.seq.k) :: s.history } := by
  have hc' : (logWrite .seq (.fccob s.seq.k) (s.seq.buf.get s.seq.k) (floatFstat rsv s)).ccif = true := by
    simpa [State.ccif] using hc
  rw [stepInput_seq, seqStep_load (by simpa using hs) (by simpa using hh)]
  simp only [seqLoad, writeFccob, storeFccob, floatFstat_seq, hc', if_true]
  split <;> rfl

theorem get_set_slot (v : Slots) (k i : Slot) (b : Byte) :
    (v.set k b).get i = if i = k then b else v.get i := by
  simp only [Vector.get_eq_getElem, Vector.getElem_set]
  by_cases h : i = k
  · subst h; simp
  · have : ¬(k.val = i.val) := fun e => h (Fin.ext e.symm)
    simp [h, this]

/-- LOAD from slot `k` with CCIF = 1 writes the slots `k..n` in order and nothing else, in one step each. -/
theorem runInputs_load : ∀ (m : Nat) (s : State) (ins : List Input), s.seq.state = .load →
    s.seq.halted = false → s.ccif = true → s.seq.n.val = s.seq.k.val + m →
    makes ins (List.replicate (m + 1) .seq) →
    ∃ f v h, runInputs ins s = .next { s with
        seq := { s.seq with k := s.seq.n, state := .launch }
        win := { s.win with fccob := v, fstat := f }
        history := h ++ s.history } ∧
      namedFlags f = namedFlags s.win.fstat ∧ Machine.ccif f = true ∧
      (∀ i, v.get i = if s.seq.k.val ≤ i.val ∧ i.val ≤ s.seq.n.val then s.seq.buf.get i
        else s.win.fccob.get i) ∧
      accesses h
        = (slotsFrom s.seq.k s.seq.n).map (fun j => .write (.fccob j) (s.seq.buf.get j)) ∧
      h.length = m + 1 := by
  intro m
  induction m with
  | zero =>
    intro s ins hs hh hc hn hm
    obtain ⟨rsv, t, rfl, ht⟩ := makes_cons.mp hm
    obtain rfl := makes_nil.mp ht
    have hk : s.seq.k = s.seq.n := Fin.ext (by omega)
    refine ⟨floatReserved rsv s.win.fstat, s.win.fccob.set s.seq.k (s.seq.buf.get s.seq.k),
      [.regWrite .seq (.fccob s.seq.k) (regAddr s.cfg (.fccob s.seq.k)) (s.seq.buf.get s.seq.k)],
      ?_, by simp, by simpa [State.ccif] using hc, ?_, ?_, rfl⟩
    · rw [runInputs_cons_next (stepInput_load rsv hs hh hc), runInputs_nil, dif_neg (by omega)]
      simp [hk]
    · intro i
      rw [get_set_slot]
      by_cases h : i = s.seq.k
      · subst h; simp [hn]
      · have : ¬(i.val = s.seq.k.val) := fun e => h (Fin.ext e)
        rw [if_neg h, if_neg (by omega)]
    · rw [hk, slotsFrom_self]; rfl
  | succ m ih =>
    intro s ins hs hh hc hn hm
    obtain ⟨rsv, t, rfl, ht⟩ := makes_cons.mp hm
    have hlt : s.seq.k.val < s.seq.n.val := by omega
    rw [runInputs_cons_next (stepInput_load rsv hs hh hc), dif_pos hlt]
    obtain ⟨f, v, h, hr, hf, hcf, hv, ha, hl⟩ := ih { s with
      seq := { s.seq with k := ⟨s.seq.k.val + 1, by omega⟩, state := .load }
      win := { s.win with
        fstat := floatReserved rsv s.win.fstat
        fccob := s.win.fccob.set s.seq.k (s.seq.buf.get s.seq.k) }
      history := .regWrite .seq (.fccob s.seq.k) (regAddr s.cfg (.fccob s.seq.k))
        (s.seq.buf.get s.seq.k) :: s.history } t rfl hh
      (by simpa [State.ccif] using hc) (by simp; omega) ht
    refine ⟨f, v, h ++ [.regWrite .seq (.fccob s.seq.k) (regAddr s.cfg (.fccob s.seq.k))
      (s.seq.buf.get s.seq.k)], ?_, by simpa using hf, hcf, ?_, ?_, by simp [hl]⟩
    · rw [hr]; simp
    · intro i
      rw [hv i]
      simp only [get_set_slot]
      by_cases h : i = s.seq.k
      · subst h; simp [hlt.le]
      · have : ¬(i.val = s.seq.k.val) := fun e => h (Fin.ext e)
        rw [if_neg h]
        by_cases h2 : s.seq.k.val + 1 ≤ i.val ∧ i.val ≤ s.seq.n.val
        · rw [if_pos h2, if_pos (by omega)]
        · rw [if_neg h2, if_neg (by omega)]
    · rw [accesses_append, ha, slotsFrom_lt hlt]; rfl

end Sys2Proof.Machine
end

