-- ==== Sys2Proof/Tests/Slice0.lean ====
section
/-! SUPPORT. Tests: ill-formed terms, the decoding of words written out from the spec, single steps from the
vectors of 95_test_vectors.md, and a witness for the hypotheses of each statement. -/

namespace Sys2Proof.Tests

open Machine

/-! ## Helpers -/

/-- Inputs that make the given moves, the reserved bits of FSTAT reading 0. -/
def inputsOf (ms : List Move) : List Input := ms.map fun m => { rsv := 0, move := m }

/-- An outcome with no flag and no effect. -/
def quietOutcome : NvmOutcome where
  rdcolerr := false
  accerr := false
  fpviol := false
  mgstat0 := false
  ret := Vector.replicate 12 none
  flash := []
  ifr := []
  eeram := none
  fsec := none
  fcnfg := none
  swapState := none

/-- `quietOutcome` leaving a swap state and its code in FCCOB5. -/
def swapOutcome (st : SwapState) (code : Byte) : NvmOutcome :=
  { quietOutcome with
    swapState := some st
    ret := (Vector.replicate 12 none).set 5 (some code) }

/-- The state after reset with SEQ in a state. -/
def seqAt (st : SeqState) : State :=
  { State.reset with seq := { State.reset.seq with state := st } }

/-- The state after reset with a command in flight. -/
def inFlight (s : State) : State :=
  { s with
    win := { s.win with fstat := 0x00 }
    nvm := { s.nvm with busy := true } }

/-- The state after reset with SWP in a state. -/
def swpAt (st : SwpState) : State :=
  { State.reset with swp := { State.reset.swp with state := st } }

/-- The state after reset with HOST at a place. -/
def hostAt (k : ReqCtl) (r : Call) : State :=
  { State.reset with req := { State.reset.req with ctl := k, call := r } }

/-- The state after reset with FSTAT at a value. -/
def fstatAt (v : Byte) : State :=
  { State.reset with win := { State.reset.win with fstat := v } }

/-! ## Ill-formed terms are refused -/

/-- A parameter count above 11 (R151). -/
theorem test_wf_execute_count :
    Instr.wf Config.standard (.execute 12 (Vector.replicate 12 4)) = false := by decide

/-- A listed command in its layout is not the row EXECUTE (R126). -/
theorem test_wf_execute_in_layout :
    Instr.wf Config.standard (.execute 0 #v[0x44, 0, 0, 0, 0, 0, 0, 0, 0, 0, 0, 0]) = false := by
  decide

/-- The generic swap-control form does not carry one of the four codes (R127). -/
theorem test_wf_swap_code :
    Instr.wf Config.standard (.pFlashSwap 0 0x08) = false ∧
      Instr.wf Config.standard (.pFlashSwap 0 0x01) = false ∧
      Instr.wf Config.standard (.pFlashSwap 0 0x02) = false ∧
      Instr.wf Config.standard (.pFlashSwap 0 0x04) = false := by decide

theorem test_wf_standard : Config.standard.wf = true := by decide

/-- The launch premise of R333 where the callback's moves keep R163; it fails where a listed or a given one
breaks it. -/
theorem test_cleanLaunch :
    let s := { State.reset with req := { State.reset.req with initDone := true } }
    ((∀ n, callbackKeeps s.cfg (Config.freeInput n).move = true) →
      { s with inputs := inputsOf [.cb .ret] }.CleanLaunch (inputsOf [.cb .ret])) ∧
    ¬{ s with inputs := inputsOf [.cb (.access .fstat)] }.CleanLaunch [] ∧
    ¬s.CleanLaunch (inputsOf [.cb (.access .fstat)]) := by
  refine ⟨fun h => ⟨rfl, rfl, ⟨rfl, rfl⟩, by decide, rfl, by decide, by decide, fun n _ => h n⟩,
    fun h => ?_, fun h => ?_⟩
  · exact absurd (h.callback.listed _ (List.mem_cons_self ..)) (by decide)
  · exact absurd (h.callback.given _ (List.mem_cons_self ..)) (by decide)

/-- A row that names a slot twice, FCCOB0, a slot above `n`, or too few slots (R120, R126). -/
theorem test_wf_layoutRow : LayoutRow.ok 2 ⟨3, [1, 1]⟩ = false ∧ LayoutRow.ok 2 ⟨3, [0, 1]⟩ = false ∧
    LayoutRow.ok 2 ⟨3, [1, 4]⟩ = false ∧ LayoutRow.ok 2 ⟨3, [1]⟩ = false ∧
    LayoutRow.ok 2 ⟨3, [3, 1]⟩ = true := by decide

/-- Two registers at one offset (R100), and a block size of 0 (R9). -/
theorem test_wf_config :
    { Config.standard with offsetLE := offsetsLE.set 0 0x01 }.wf = false ∧
      { Config.standard with pblockSize := 0 }.wf = false := by decide

/-! ## Decoding: each word is the example of its rule -/

theorem test_decode_verifyBlock : decodeBytes Config.standard [0x00, 0x00, 0x00, 0x00, 0x00]
    = .ok (.verifyBlock 0 0) := by decide
theorem test_decode_verifySection :
    decodeBytes Config.standard [0x01, 0x80, 0x00, 0x00, 0x00, 0x10, 0x00]
    = .ok (.verifySection 0x800000 16 0) := by decide
theorem test_decode_programCheck : decodeBytes Config.standard
    [0x02, 0x00, 0x01, 0x00, 0x01, 0x00, 0x00, 0x00, 0xDD, 0xCC, 0xBB, 0xAA]
    = .ok (.programCheck 0x000100 1 0xAABBCCDD) := by decide
theorem test_decode_readResource : decodeBytes Config.standard
    [0x03, 0x80, 0x00, 0xFC, 0x00, 0x00, 0x00, 0x00, 0x00]
    = .ok (.readResource 0x8000FC 0) := by decide
theorem test_decode_programLongword : decodeBytes Config.standard
    [0x06, 0x00, 0x01, 0x00, 0xDD, 0xCC, 0xBB, 0xAA]
    = .ok (.programLongword 0x000100 0xAABBCCDD) := by decide
theorem test_decode_programLongword_be :
    decodeBytes { Config.standard with endian := .be } [0x06, 0x00, 0x01, 0x00, 0xAA, 0xBB, 0xCC, 0xDD]
    = .ok (.programLongword 0x000100 0xAABBCCDD) := by decide
theorem test_decode_programPhrase : decodeBytes Config.standard
    [0x07, 0x00, 0x00, 0x08, 0x44, 0x33, 0x22, 0x11, 0x88, 0x77, 0x66, 0x55]
    = .ok (.programPhrase 0x000008 0x11223344 0x55667788) := by decide
theorem test_decode_eraseBlock : decodeBytes Config.standard [0x08, 0x80, 0x00, 0x00]
    = .ok (.eraseBlock 0x800000) := by decide
theorem test_decode_eraseSector : decodeBytes Config.standard [0x09, 0x00, 0x08, 0x00]
    = .ok (.eraseSector 0x000800) := by decide
theorem test_decode_programSection :
    decodeBytes Config.standard [0x0B, 0x00, 0x10, 0x00, 0x00, 0x20]
    = .ok (.programSection 0x001000 32) := by decide
theorem test_decode_verifyAllBlock : decodeBytes Config.standard [0x40, 0x00]
    = .ok (.verifyAllBlock 0) := by decide
theorem test_decode_readOnce : decodeBytes Config.standard [0x41, 0x00]
    = .ok (.readOnce 0) := by decide
theorem test_decode_programOnce : decodeBytes Config.standard
    [0x43, 0x02, 0x00, 0x00, 0x78, 0x56, 0x34, 0x12]
    = .ok (.programOnce 2 0x12345678) := by decide
theorem test_decode_eraseAllBlock : decodeBytes Config.standard [0x44] = .ok .eraseAllBlock := by
  decide
theorem test_decode_securityBypass : decodeBytes Config.standard
    [0x45, 0x00, 0x00, 0x00, 0x01, 0x02, 0x03, 0x04, 0x05, 0x06, 0x07, 0x08]
    = .ok (.securityBypass #v[1, 2, 3, 4, 5, 6, 7, 8]) := by decide
theorem test_decode_pFlashSwap : decodeBytes Config.standard [0x46, 0x00, 0x40, 0x00, 0x77]
    = .ok (.pFlashSwap 0x004000 0x77) := by decide
theorem test_decode_pFlashSwapReportStatus :
    decodeBytes Config.standard [0x46, 0x00, 0x40, 0x00, 0x08]
    = .ok (.pFlashSwapReportStatus 0x004000) := by decide
theorem test_decode_pFlashSwapSetIndicatorAddress :
    decodeBytes Config.standard [0x46, 0x00, 0x40, 0x00, 0x01]
    = .ok (.pFlashSwapSetIndicatorAddress 0x004000) := by decide
theorem test_decode_pFlashSwapSetInPrepare :
    decodeBytes Config.standard [0x46, 0x00, 0x40, 0x00, 0x02]
    = .ok (.pFlashSwapSetInPrepare 0x004000) := by decide
theorem test_decode_pFlashSwapSetInComplete :
    decodeBytes Config.standard [0x46, 0x00, 0x40, 0x00, 0x04]
    = .ok (.pFlashSwapSetInComplete 0x004000) := by decide
theorem test_decode_eraseAllBlockUnsecure : decodeBytes Config.standard [0x49]
    = .ok .eraseAllBlockUnsecure := by decide
theorem test_decode_programPartition :
    decodeBytes Config.standard [0x80, 0x00, 0x00, 0x00, 0x35, 0x03]
    = .ok (.programPartition 0x35 0x03) := by decide
theorem test_decode_setEERAM : decodeBytes Config.standard [0x81, 0x00] = .ok (.setEERAM 0) := by
  decide
/-- An unlisted opcode is carried as it is (R131). -/
theorem test_decode_execute : decodeBytes Config.standard [0x04, 0xAA]
    = .ok (.execute 1 #v[0x04, 0xAA, 0, 0, 0, 0, 0, 0, 0, 0, 0, 0]) := by decide
theorem test_decode_swap : decode Config.standard (.swap 0x4000) = .ok (.swap 0x4000) := by decide
/-- Another P_LAYOUT: the operands are read from its slots (R9). -/
theorem test_decode_layout :
    let cfg := { Config.standard with
      layout := { Layout.standard with readOnce := ⟨3, [3]⟩ } }
    decodeBytes cfg [0x41, 0x00, 0x00, 0x07] = .ok (.readOnce 7) ∧
      encode cfg (.readOnce 7) = .execute 3 #v[0x41, 0, 0, 7, 0, 0, 0, 0, 0, 0, 0, 0] := by decide
theorem test_decode_rejects : decodeBytes Config.standard [] = .error .emptyObject ∧
    decodeBytes Config.standard (List.replicate 13 0) = .error .objectTooLong ∧
    decode Config.standard (.execute 12 (Vector.replicate 12 0)) = .error .paramCount := by decide
/-- A table word, its first byte in bits 7..0. -/
theorem test_decodeTableWord : decodeTableWord 32 0x00080009 = some (.eraseSector 0x000800) := by
  decide
theorem test_decodeTableWord_opcode : decodeTableWord 8 0x44 = some .eraseAllBlock := by decide

/-! ## Single steps -/

/-- V1 (R160): the decoder on each of the flags, and on the source's ACCERR and FPVIOL together. -/
theorem test_decoder : [0x80, 0x81, 0x90, 0x91, 0xA0, 0xB1, 0xC0, 0x8E].map decodeStatus
    = [0x0000, 0x0010, 0x0008, 0x0008, 0x0004, 0x0004, 0x0000, 0x0000] := by decide

/-- R33: the clear of 0xF1 leaves CCIF and MGSTAT0, and launches nothing. -/
theorem test_clear : (writeFstat .seq 0x70 (fstatAt 0xF1)).win.fstat = 0x81 ∧
    (writeFstat .seq 0x70 (fstatAt 0xF1)).nvm.busy = false := by decide

/-- R33, R169: the launch clears CCIF and MGSTAT0. -/
theorem test_launch : (writeFstat .seq 0x80 (fstatAt 0x81)).win.fstat = 0x00 ∧
    (writeFstat .seq 0x80 (fstatAt 0x81)).nvm.busy = true := by decide

/-- R33: no launch while ACCERR is set. -/
theorem test_launch_ignored : (writeFstat .host 0x80 (fstatAt 0xA0)).nvm.busy = false := by decide

/-- R170: a completion sets the drawn flag and CCIF. -/
theorem test_completion :
    (nvmStep { quietOutcome with fpviol := true } (inFlight State.reset)).win.fstat = 0x90 := by
  decide

/-- R41: a normal-mode write adds protection only; a special-mode write stores. -/
theorem test_protValue : protValue .normal 0xF0 0x3C = 0x30 ∧ protValue .special 0xF0 0x3C = 0x3C := by
  decide

/-- R150 LOAD: slot 0 gets byte 0, and SEQ goes on to slot 1. -/
theorem test_load :
    let s := { State.reset with
      seq := { State.reset.seq with state := .load, n := 1, buf := Vector.replicate 12 0x5A } }
    (seqStep s).win.fccob[0] = 0x5A ∧ (seqStep s).seq.k = 1 ∧ (seqStep s).seq.state = .load := by
  decide

/-- R150 LOAD: slot `seq_n` is the last. -/
theorem test_load_last : (seqStep (seqAt .load)).seq.state = .launch := by decide

/-- R262, R266 (V11 form): the end-address bound at the edge of P-Flash, and the D-Flash offset. -/
theorem test_translate :
    translate Config.standard .progErase 0x000FF000 0x1000 = some 0x0FF000 ∧
      translate Config.standard .progErase 0x000FF000 0x2000 = none ∧
      translate Config.standard .progErase 0x10000400 0x400 = some 0x800400 ∧
      translate Config.standard .verify 0x000FFFFC 0x2000 = some 0x0FFFFC := by decide

/-- R97 a: the byte order of the build selects the register offsets (the tables of R100). -/
theorem test_offset :
    regAddr Config.standard (.fccob 0) = 0x40020007 ∧
      regAddr { Config.standard with endian := .be } (.fccob 0) = 0x40020004 := by decide

/-- R308: a misaligned ProgramSection is AddressAlignmentError, whatever the capability check draws. -/
theorem test_alignment_first :
    (match hostStart (.programSection 1 1) { fails := true, pick := 0 } State.reset with
      | .next s => s.req.ret.code == 0x0100
      | _ => false) = true := by decide

/-- R196, R261: the procedure that issues 0x08 checks its alignment. -/
theorem test_eraseBlock_checked :
    (match hostStart (.eraseBlock 0x1001 0) { fails := false, pick := 0 } State.reset with
      | .next s => s.req.ret.code == 0x0100
      | _ => false) = true := by decide

/-- R240: the ACCERR row, a set-in-complete in state Ready. -/
theorem test_nominal_accerr :
    let k := (objPFlashSwap Config.standard 0x4000 0x04).p
    nominal Config.standard 0x4000 k .ready { quietOutcome with accerr := true } = true ∧
      nominal Config.standard 0x4000 k .ready (swapOutcome .complete 0x04) = false := by decide

/-- R240, 93 I33: no completion leaves Complete, an erase of another sector among them, while the erase of the
indicator's sector leads from Update to UpdateErased. -/
theorem test_nominal_transitions :
    let other := (objEraseSector Config.standard 0x002000).p
    let indicator := (objEraseSector Config.standard 0x084000).p
    let o := { quietOutcome with swapState := some .updateErased }
    nominal Config.standard 0x4000 other .complete o = false ∧
      nominal Config.standard 0x4000 other .complete { o with swapState := none } = true ∧
      nominal Config.standard 0x4000 indicator .update o = true := by decide

/-- R106, R344: a section programmed from the last P-Flash phrase on into D-Flash is on D-Flash too, one that
ends with P-Flash is not, nor is it on another block of P-Flash. -/
theorem test_onBlock_crossing :
    let c := Config.standard
    let two := (objProgramSection c 0x7FFFF8 2).p
    let one := (objProgramSection c 0x7FFFF8 1).p
    mayChange c two 0x800000 = true ∧ commandOnBlock c two 0x81FFFF = true ∧
      commandOnBlock c two 0x820000 = false ∧ commandOnBlock c one 0x800000 = false ∧
      commandOnBlock c one 0x7E0000 = true ∧ commandOnBlock c one 0x7DFFFF = false := by decide

/-- R8, R346: after FlashInit its store of other sizes is refused, and of the same ones goes through. -/
theorem test_initStore_again :
    let s := { State.reset with req := { State.reset.req with initDone := true } }
    (match initStore 0 0 0 s with
      | .refused .refuseConfigChange => true
      | _ => false) = true ∧
    (match initStore 0 0x00020000 0 s with
      | .next t => t.cfg == s.cfg
      | _ => false) = true := by decide

/-- V20: the sector erased for the indicator 0x4000 is at 0x84000. -/
theorem test_eraseTarget : eraseTarget Config.standard 0x4000 = 0x84000 := by decide

/-- The step after `withFetchWord` accepts the command. -/
theorem test_withFetchWord :
    (match step (State.reset.withFetchWord 8 0x44) with
      | .next s => s.seq.state == .waitReady && s.seq.buf[0] == 0x44 && s.seq.n == 0
      | _ => false) = true := by decide

/-- A SWAP is accepted. -/
theorem test_swap :
    (match exec (.swap 0x4000) State.reset with
      | .next s => s.swp.state == .check && s.swp.addr == 0x4000
      | _ => false) = true := by decide

/-! ## Witnesses: a state and operands that meet each statement's hypotheses -/

theorem test_meets_EncodedInstructionsDecodeBack : Config.standard.swapCode.distinct = true ∧
    Config.standard.layout.ok = true ∧
    { Layout.standard with readOnce := ⟨3, [3]⟩ }.ok = true ∧
    Instr.wf Config.standard (.execute 11 (Vector.replicate 12 0x04)) = true ∧
    Instr.wf Config.standard (.pFlashSwap 0xFFFFFF 0xFF) = true := by decide

theorem test_meets_DecodedRequestsEncodeBack : Config.standard.layout.ok = true ∧
    decode Config.standard (.execute 0 #v[0x44, 0, 0, 0, 0, 0, 0, 0, 0, 0, 0, 0])
      = .ok .eraseAllBlock := by decide

theorem test_meets_LongCountsAreRefused : 11 < (12 : BitVec 4).toNat ∧ 11 < (15 : BitVec 4).toNat := by
  decide

theorem test_meets_StepRunsTheOfferedInstruction :
    let r : Request := .execute 0 #v[0x44, 0, 0, 0, 0, 0, 0, 0, 0, 0, 0, 0]
    let s := { State.reset with
      inputs := inputsOf [.host (.call (.request r) { fails := false, pick := 0 })] }
    s.inputs = { rsv := 0, move := .host (.call (.request r) { fails := false, pick := 0 }) } :: [] ∧
      s.req.ctl = .idle ∧ decode s.cfg r = .ok .eraseAllBlock := by decide

theorem test_meets_StepRunsTheFetchWord :
    decode State.reset.cfg (tableWordRequest 8 0x44) = .ok .eraseAllBlock := by decide

/-- For every statement whose hypothesis is that a command is accepted now and finds the controller idle. -/
theorem test_meets_ready : State.reset.ready = true ∧ State.reset.cfg.layout.ok = true ∧
    State.reset.cfg.layout = Layout.standard := by decide

theorem test_meets_served_run :
    makes (inputsOf (commandMoves 11 quietOutcome)) (commandMoves 11 quietOutcome) ∧
      makes (inputsOf (commandMoves 7 quietOutcome)) (commandMoves 7 quietOutcome) := ⟨rfl, rfl⟩

theorem test_meets_ProgrammedLongwordFollowsEndianness :
    let s := { State.reset with cfg := { Config.standard with endian := .be } }
    State.reset.cfg.endian = .le ∧ s.ready = true ∧ s.cfg.endian = .be ∧ s.cfg.layout.ok = true ∧
      makes (inputsOf (commandMoves s.cfg.layout.programLongword.n quietOutcome))
        (commandMoves s.cfg.layout.programLongword.n quietOutcome) := by
  refine ⟨by decide, by decide, by decide, by decide, rfl⟩

theorem test_meets_BusyPortAcceptsNothing : (seqAt .waitReady).seq.state ≠ .idle ∧
    (swpAt .check).port = .host ∧ (swpAt .check).swp.state ≠ .idle ∧
    (∀ a, Instr.execute 11 (Vector.replicate 12 0) ≠ .swap a) := by
  refine ⟨by decide, by decide, by decide, fun a h => by cases h⟩

theorem test_meets_AcceptanceFrame :
    ∃ t u, exec .eraseAllBlock State.reset = .next t ∧ exec (.swap 0x4000) State.reset = .next u :=
  ⟨_, _, rfl, rfl⟩

theorem test_meets_ExecuteAccessTrace :
    let s := inFlight (seqAt .waitReady)
    s.seq.state = .waitReady ∧ s.seq.halted = false ∧ s.ccif = false ∧ s.nvm.busy = true ∧
      makes (inputsOf (List.replicate 0 Move.seq ++ (Move.nvm quietOutcome ::
        (List.replicate (s.seq.n.val + 4) Move.seq ++ (pollMoves s.cfg.callback 0 ++
          (Move.nvm quietOutcome :: List.replicate 2 Move.seq))))))
        (List.replicate 0 Move.seq ++ (Move.nvm quietOutcome ::
        (List.replicate (s.seq.n.val + 4) Move.seq ++ (pollMoves s.cfg.callback 0 ++
          (Move.nvm quietOutcome :: List.replicate 2 Move.seq))))) :=
  ⟨rfl, rfl, rfl, rfl, rfl⟩

/-- SWP in a wait with a mode byte. -/
def swpWaiting (st : SwpState) (m : Byte) : State :=
  { swpAt st with swp := { (swpAt st).swp with mode := m } }

/-- Each wait of SWP with a code that keeps it, and one that ends it. -/
theorem test_meets_WaitsAreUnbounded :
    let c := Config.standard.swapState
    (inFlight (seqAt .waitReady)).ccif = false ∧ (seqAt .waitReady).ccif = true ∧
      (inFlight (seqAt .poll)).ccif = false ∧ (inFlight (seqAt .poll)).seq.state = .poll ∧
      keepsWaiting c (swpWaiting .waitUninit 0).swp.state (swpWaiting .waitUninit 0).swp.mode ∧
      keepsWaiting c (swpWaiting .waitReady 1).swp.state 1 ∧
      keepsWaiting c (swpWaiting .waitComp 0).swp.state ((swpWaiting .waitComp 0).win.fccob.get 5) ∧
      ¬keepsWaiting c (swpWaiting .waitUninit 1).swp.state 1 ∧
      ¬keepsWaiting c (swpWaiting .waitReady 0).swp.state 0 ∧
      ¬keepsWaiting c (swpWaiting .waitComp 4).swp.state 4 ∧
      (swpWaiting .waitComp 0).cfg.waitMode = .rereadFccob5 ∧
      { Config.standard with waitMode := .reissueReport }.waitMode = .reissueReport ∧
      (swpWaiting .waitComp 0).swp.call = .none ∧ (swpWaiting .waitComp 0).swp.halted = false ∧
      makes (inputsOf [.swp, .swp]) (List.replicate 2 .swp) ∧
      makes (inputsOf (pollMoves true 2)) (pollMoves true 2) := by
  refine ⟨?_, ?_, ?_, ?_, ?_, ?_, ?_, ?_, ?_, ?_, ?_, ?_, ?_, ?_, rfl, rfl⟩ <;>
    first | decide | (unfold keepsWaiting; decide)

theorem test_meets_WaitsHaveNoCancellation :
    (∃ t, stepInput { rsv := 0, move := .seq } (seqAt .waitReady) = .next t ∧
      t.seq.state ≠ (seqAt .waitReady).seq.state) ∧
    (∃ t, stepInput { rsv := 0, move := .seq } (seqAt .poll) = .next t ∧
      t.seq.state ≠ (seqAt .poll).seq.state) ∧
    (∃ t, stepInput { rsv := 0, move := .cb .ret } (seqAt .cbWait) = .next t ∧
      t.seq.state ≠ (seqAt .cbWait).seq.state) :=
  ⟨⟨_, rfl, by decide⟩, ⟨_, rfl, by decide⟩, ⟨_, rfl, by decide⟩⟩

theorem test_meets_AccessErrorBeatsProtection :
    let s := { seqAt .decode with win := { State.reset.win with fstat := 0xB0 } }
    s.seq.state = .decode ∧ s.seq.halted = false ∧ accerr s.win.fstat = true ∧
      fpviol s.win.fstat = true := by decide

theorem test_meets_ExecuteReportsFourCodes :
    (match stepInput { rsv := 0, move := .seq } (seqAt .decode) with
      | .next t => t.history.contains (.done .seq .host 0x0000)
      | _ => false) = true := by decide

theorem test_meets_FccobWriteSemantics : (fstatAt 0x00).serving = false ∧ (fstatAt 0x00).ccif = false := by
  decide

theorem test_meets_CompletionEffects : (inFlight State.reset).nvm.busy = true := by decide

/-- The state after reset with a given command in flight. -/
def commandInFlight (op a2 a1 a0 : Byte) : State :=
  { inFlight State.reset with
    nvm := { State.reset.nvm with busy := true, cmd := #v[op, a2, a1, a0, 0, 0, 0, 0, 0, 0, 0, 0] } }

/-- For each clause, a command in flight and an address just past its footprint. -/
theorem test_meets_CompletionArrayFootprint :
    let c := Config.standard
    let a (o : Opcode) (s : State) : Nat := (addrIn s.cfg o s.nvm.cmd).toNat
    (commandInFlight 0x41 0 0 0).nvm.busy = true ∧ (commandInFlight 0x41 0 0 0).nvm.cmd[0] = 0x41 ∧
      a .programLongword (commandInFlight 0x06 0x00 0x01 0x00) = 0x100 ∧
      ¬(0x100 ≤ 0x104 ∧ 0x104 < 0x100 + 4) ∧
      a .programPhrase (commandInFlight 0x07 0x00 0x01 0x00) = 0x100 ∧ ¬(0x100 ≤ 0x108 ∧ 0x108 < 0x100 + 8) ∧
      a .programSection (commandInFlight 0x0B 0x00 0x01 0x00) = 0x100 ∧
      (countIn c .programSection (commandInFlight 0x0B 0x00 0x01 0x00).nvm.cmd).toNat = 0 ∧
      a .eraseSector (commandInFlight 0x09 0x00 0x2F 0xFF) = 0x2FFF ∧
      0x2FFF / c.psectorSize.toNat ≠ 0x3000 / c.psectorSize.toNat ∧
      a .eraseSector (commandInFlight 0x09 0x80 0x03 0xFF) = 0x8003FF ∧
      (0x8003FF - 0x800000) / c.dsectorSize.toNat ≠ (0x800400 - 0x800000) / c.dsectorSize.toNat ∧
      a .eraseBlock (commandInFlight 0x08 0x07 0xFF 0xFF) = 0x7FFFF ∧
      0x7FFFF / c.pblockSize.toNat ≠ 0x80000 / c.pblockSize.toNat ∧
      a .eraseBlock (commandInFlight 0x08 0x81 0xFF 0xFF) = 0x81FFFF ∧
      (0x81FFFF - 0x800000) / c.dblockSize.toNat ≠ (0x820000 - 0x800000) / c.dblockSize.toNat := by decide

/-- The boundary bytes of each footprint, where a drawn byte lands, and a command that may change any. -/
theorem test_meets_CompletionArrayFootprint_lands :
    let c := Config.standard
    Memory.wf (commandInFlight 0x06 0x00 0x01 0x00).nvm.flash = true ∧
      (0x100 ≤ 0x103 ∧ 0x103 < 0x100 + 4) ∧ (0x100 ≤ 0x107 ∧ 0x107 < 0x100 + 8) ∧
      (countIn c .programSection (objProgramSection c 0x100 1).p).toNat * c.sectionUnit.toNat = 8 ∧
      0x2FFF / c.psectorSize.toNat = 0x2000 / c.psectorSize.toNat ∧
      (0x8003FF - 0x800000) / c.dsectorSize.toNat = 0 ∧
      0x1FFFF / c.pblockSize.toNat = 0 ∧ (0x81FFFF - 0x800000) / c.dblockSize.toNat = 0 ∧
      (commandInFlight 0x49 0 0 0).nvm.cmd[0] ∈ ([0x44, 0x46, 0x49] : List Byte) ∧
      (commandInFlight 0x04 0 0 0).nvm.cmd[0] ∉ opcodes.map opcodeByte ∧
      { quietOutcome with flash := [(0x103, 0x5A)] }.flash = [] ++ (0x103, 0x5A) :: [] := by decide

theorem test_meets_IdleControllerTakesNoStep : State.reset.nvm.busy = false := by decide

/-- For the statements about any step that is no reset and no completion. -/
theorem test_meets_steps :
    (∃ t, stepInput { rsv := 0, move := .seq } (seqAt .clearErr) = .next t) ∧
      (∃ t, stepInput { rsv := 0, move := .seq } (seqAt .load) = .next t) ∧
      (∃ t, stepInput { rsv := 0, move := .swp } (swpAt .readMode) = .next t) ∧
      (∃ t, stepInput { rsv := 0, move := .host .go } (hostAt .initPoll .none) = .next t) ∧
      (seqAt .load).seq.k.val ≤ (seqAt .load).seq.n.val ∧
      State.reset.nvm.protMode = .normal ∧ State.reset.nvm.busy = false :=
  ⟨⟨_, rfl⟩, ⟨_, rfl⟩, ⟨_, rfl⟩, ⟨_, rfl⟩, by decide, by decide, by decide⟩

theorem test_meets_ProtectionWriteSemantics : (fstatAt 0x00).ccif = false ∧
    State.reset.ccif = true ∧ State.reset.serving = false ∧ (seqAt .load).ccif = true ∧
    (seqAt .load).serving = true := by decide

/-- A step that changes the configuration: FlashInit's, on a derivative without D-Flash. -/
theorem test_meets_OnlyTheirWritersChangeHiddenState :
    let s := { hostAt .initPoll .none with cfg := { Config.standard with dflashPhysSize := 0 } }
    let d := { s with req := { s.req with initDone := true } }
    (∃ t, stepInput { rsv := 0, move := .host .go } s = .next t ∧ t.cfg ≠ s.cfg ∧
      s.nvm.busy = false) ∧ d.req.initDone = true ∧ ∃ t, stepInput { rsv := 0, move := .seq } d = .next t :=
  ⟨⟨_, rfl, by decide, by decide⟩, rfl, _, rfl⟩

theorem test_meets_MisuseFaults : (seqAt .decode).seq.state ≠ .idle ∧
    (seqAt .cbWait).seq.state = .cbWait ∧ (swpAt .check).swp.state ≠ .idle ∧
    State.reset.seq.state = .idle ∧ State.reset.swp.state = .idle := by decide

/-- R90, log 63: a byte of P-Flash is read where the EERAM range or a reserved offset lies too. -/
theorem test_arrayRead_overlap :
    let c := { Config.standard with eeramBase := 0x00010000, regBase := 0x00020000 }
    let s := { State.reset with cfg := c }
    let reads (addr : Addr) : Bool :=
      match arrayRead addr s with
      | .next u => u.history == .arrayRead addr 0xFF :: s.history
      | _ => false
    inBlock .progErase c.eeramBase.toNat c.eeramSize.toNat 0x10000 1 = true ∧ reads 0x10000 = true ∧
      regAt c 0x20014 = none ∧ reads 0x20014 = true := by decide

/-- R190, R196, log 62: at reset the alignment of the block commands is the block's, in both regions. -/
theorem test_reset_block_alignment :
    let c := Config.standard
    c.align.verifyBlock = c.pblockSize ∧ c.align.eraseBlock = c.pblockSize ∧
      c.dblockSize = c.pblockSize := by decide

/-- R203, R205, R206, R190: no block, D-Flash, no block, and the block of the address. -/
theorem test_onBlock_others :
    let c := Config.standard
    commandOnBlock c (commandInFlight 0x45 0 0 0).nvm.cmd 0 = false ∧
      commandOnBlock c (commandInFlight 0x80 0 0 0).nvm.cmd 0x800000 = true ∧
      commandOnBlock c (commandInFlight 0x80 0 0 0).nvm.cmd 0x7FFFFF = false ∧
      commandOnBlock c (commandInFlight 0x81 0 0 0).nvm.cmd 0x800000 = false ∧
      commandOnBlock c (commandInFlight 0x00 0x08 0 0).nvm.cmd 0x09FFFF = true ∧
      commandOnBlock c (commandInFlight 0x00 0x08 0 0).nvm.cmd 0x07FFFF = false := by decide

/-- A command in flight on the block of a read, one on another block, and for each clause a command and the
bytes where its blocks begin or end. -/
theorem test_meets_ArrayReadsFaultInFlight :
    let c := Config.standard
    let here := commandInFlight 0x08 0x0E 0x00 0x00
    let away := commandInFlight 0x08 0x07 0xFF 0xFF
    let on (op a2 a1 a0 : Byte) : Nat → Bool := commandOnBlock c (commandInFlight op a2 a1 a0).nvm.cmd
    (regAt c 0x000FFFFF = none ∧ (seqAt .cbWait).seq.state = .cbWait ∧
      c.wf = true ∧ State.reset.serving = false ∧ State.reset.cfg = c ∧
      translate c .progErase (0x000FFFFF : Addr).toNat 1 = some 0x0FFFFF ∧
      here.nvm.busy = true ∧ commandOnBlock here.cfg here.nvm.cmd 0x0FFFFF = true ∧
      commandOnBlock away.cfg away.nvm.cmd 0x0FFFFF = false ∧
      mayChange c (objProgramLongword c 0x7FFFFC 0).p 0x7FFFFF = true) ∧
    (0 < c.pblockSize.toNat ∧ 0 < c.dblockSize.toNat ∧ 0x800000 % c.pblockSize.toNat = 0 ∧
      0 < c.psectorSize.toNat ∧ 0 < c.dsectorSize.toNat ∧ 0x800000 % c.psectorSize.toNat = 0) ∧
    (on 0x02 0x07 0xFF 0xFC 0x07FFFF = true ∧ on 0x02 0x07 0xFF 0xFC 0x080000 = false ∧
      on 0x06 0x07 0xFF 0xFD 0x080000 = true ∧ on 0x07 0x7F 0xFF 0xF9 0x800000 = true ∧
      on 0x01 0x80 0x00 0x00 0x81FFFF = true ∧ on 0x0B 0x80 0x00 0x00 0x820000 = false) ∧
    (on 0x09 0x07 0xFF 0xFF 0x060000 = true ∧ on 0x09 0x07 0xFF 0xFF 0x080000 = false ∧
      on 0x03 0x80 0x00 0xFC 0x000000 = true ∧ on 0xFF 0x00 0x00 0x00 0x81FFFF = true) := by decide

theorem test_meets_UndescribedRequestsAreRefused : State.reset.req.ctl = .idle ∧
    (inFlight State.reset).nvm.busy = true := by decide

theorem test_meets_ResetLeavesLaunchState : State.reset.seq.state = .idle ∧
    State.reset.swp.state = .idle ∧ State.reset.nvm.busy = false := by decide

theorem test_meets_DebugBreakHaltsTheFsm :
    let s := { seqAt .decode with cfg := { Config.standard with debugEnable := true } }
    let h := { State.reset with
      seq := { State.reset.seq with halted := true }
      swp := { State.reset.swp with halted := true } }
    s.cfg.debugEnable = true ∧ s.seq.state = .decode ∧ s.seq.halted = false ∧
      h.seq.halted = true ∧ h.swp.halted = true ∧ State.reset.cfg.debugEnable = false ∧
      ∃ t, stepInput { rsv := 0, move := .seq } h = .next t := by
  refine ⟨rfl, rfl, rfl, rfl, rfl, rfl, _, rfl⟩

/-- A state in the middle of a command that meets every invariant, and takes a step. -/
theorem test_meets_invariants :
    let s := { inFlight (seqAt .poll) with inputs := inputsOf [.nvm quietOutcome] }
    CcifInv s ∧ SeqInv s ∧ MemoryInv s ∧ SwpInv s ∧ CodesInv s ∧ ∃ t, step s = .next t := by
  refine ⟨rfl, ?_, ⟨rfl, rfl⟩, trivial, ?_, _, rfl⟩
  · intro i _
    revert i
    decide
  · refine ⟨?_, ?_, ?_, ?_, ?_, ?_⟩ <;> intros <;> simp_all [inFlight, seqAt, State.reset, State.launch]

/-- Each clause at the edges of its range: inside bank 0 at 0, 0x3FF, 0x410 and 0x7FFFF; refused at 0x400,
0x40F and 0x80000. -/
theorem test_meets_SwapValidatesItsAddress : swapOpen State.reset = true ∧
    [0x0, 0x3FF, 0x410, 0x7FFFF].all (swapAddrOk State.reset.cfg) = true ∧
    [0x400, 0x40F, 0x80000].any (swapAddrOk State.reset.cfg) = false := by decide

theorem test_meets_SwapDrivesToComplete :
    let c := Config.standard
    let ia := indicatorAddr c 0x4000
    let allows (k : CommandObject) (st : SwapState) (o : NvmOutcome) : Prop :=
      nominal c ia k.p st o = true
    swapOpen State.reset = true ∧ State.reset.seq.halted = false ∧ State.reset.ccif = true ∧
      State.reset.nvm.busy = false ∧ State.reset.cfg.wf = true ∧
      State.reset.cfg.debugEnable = false ∧ swapAddrOk State.reset.cfg 0x4000 = true ∧
      State.reset.nvm.swapState = .uninitialized ∧
      allows (objPFlashSwap c ia 0x08) .uninitialized (swapOutcome .uninitialized 0x00) ∧
      allows (objPFlashSwap c ia 0x01) .uninitialized (swapOutcome .ready 0x01) ∧
      allows (objPFlashSwap c ia 0x02) .ready (swapOutcome .update 0x02) ∧
      allows (objEraseSector c (eraseAddr c 0x4000)) .update
        { quietOutcome with swapState := some .updateErased } ∧
      allows (objPFlashSwap c ia 0x04) .updateErased (swapOutcome .complete 0x04) := by decide

theorem test_meets_SwapDrivesToComplete_run :
    let ms := swapMoves (swapOutcome .uninitialized 0) (swapOutcome .ready 1) (swapOutcome .update 2)
      quietOutcome (swapOutcome .complete 4)
    makes (inputsOf ms) ms := rfl

theorem test_meets_SwapWithNothingToDoSucceeds :
    let st := Config.standard.swapState
    (4 : Byte) ∉ [st.uninit, st.ready, st.update, st.updateErased] ∧
      outcomeCode (swapOutcome .complete 4) = 0x0000 ∧ Config.standard.layout.ok = true ∧
      (swapOutcome .complete 4).ret.get 5 = some 4 := by decide

theorem test_meets_SubcommandFailureAbortsSwap :
    let s := { State.reset with swp := { State.reset.swp with state := .query, call := .done 0x0004 } }
    let w := { s with
      cfg := { s.cfg with waitMode := .reissueReport }
      swp := { s.swp with state := .waitComp } }
    s.swp.halted = false ∧ s.swp.call = .done 0x0004 ∧ (0x0004 : Code) ≠ 0x0000 ∧
      s.swp.state ∈ [SwpState.query, .setInd, .setPrep, .erase, .setComp] ∧
      w.swp.state ∈ [SwpState.waitUninit, .waitReady, .waitComp] ∧
      w.cfg.waitMode = .reissueReport := by decide

theorem test_meets_SuccessReadsTheSwapState :
    let s := { State.reset with swp := { State.reset.swp with state := .setComp, call := .done 0 } }
    s.swp.halted = false ∧ s.swp.call = .done 0x0000 ∧
      s.swp.state ∈ [SwpState.query, .setInd, .setPrep, .setComp] ∧
      (swpAt .readMode).swp.state = .readMode ∧
      (swpAt .waitReady).swp.state ∈ [SwpState.waitUninit, .waitReady, .waitComp] ∧
      { Config.standard with waitMode := .reissueReport }.waitMode = .reissueReport := by decide

/-- A step that stays in its wait, and the dispatches and the step that enter each command of a phase. -/
theorem test_meets_SwapPhasesGoForward :
    (∃ t, stepInput { rsv := 0, move := .swp } (swpWaiting .waitComp 0) = .next t ∧
      t.swp.state = .waitComp) ∧
    (∃ t, stepInput { rsv := 0, move := .swp } (swpWaiting .dispatch 0) = .next t ∧
      t.swp.state = .setInd) ∧
    (∃ t, stepInput { rsv := 0, move := .swp } (swpWaiting .dispatch 1) = .next t ∧
      t.swp.state = .setPrep) ∧
    (∃ t, stepInput { rsv := 0, move := .swp } (swpWaiting .dispatch 2) = .next t ∧
      t.swp.state = .erase) ∧
    (∃ t, stepInput { rsv := 0, move := .swp } (swpWaiting .dispatch 3) = .next t ∧
      t.swp.state = .setComp) :=
  ⟨⟨_, rfl, rfl⟩, ⟨_, rfl, rfl⟩, ⟨_, rfl, rfl⟩, ⟨_, rfl, rfl⟩, ⟨_, rfl, rfl⟩⟩

theorem test_meets_SwapErasesTheOtherBank : Config.standard.wf = true ∧
    swapAddrOk Config.standard 0x7FFFF = true := by decide

/-- The last address of each region with its size, and one past it. -/
theorem test_meets_TranslationLaws : Config.standard.wf = true ∧
    0xFF000 + 0x1000 ≤ Config.standard.pflashSize.toNat ∧
    0x1FC00 + 0x400 ≤ Config.standard.dflashSize.toNat ∧
    endsInP Config.standard (Config.standard.dflashBase.toNat + 0x1FC00) 0x400 = false ∧
    endsInP Config.standard 0xFF001 0x1000 = false ∧ endsInD Config.standard 0xFF001 0x1000 = false ∧
    0xFFFFF < Config.standard.pflashSize.toNat ∧ 0x1FFFF < Config.standard.dflashSize.toNat ∧
    startsInP Config.standard (Config.standard.dflashBase.toNat + 0x1FFFF) = false ∧
    startsInP Config.standard 0x100000 = false ∧ startsInD Config.standard 0x100000 = false := by
  decide

/-- Each clause of `callerError`: a destination off by one, a size off by one, one past the region. -/
theorem test_meets_CallerErrorsTouchNothing : State.reset.req.ctl = .idle ∧
    callerError 0x1000 0x1 0x1000 true 0x0100 ∧ callerError 0x1000 0x1000 0x1001 true 0x0001 ∧
    callerError 4 0x100000 4 (endsInP Config.standard 0x100000 4 || endsInD Config.standard 0x100000 4)
      0x0002 := by
  refine ⟨by decide, ?_, ?_, ?_⟩ <;> unfold callerError <;> decide

theorem test_meets_WrappersExpandIntoUnits : State.reset.req.ctl = .idle ∧
    translate State.reset.cfg .progErase (0xFF000 : Addr).toNat (0x1000 : Addr).toNat = some 0xFF000 ∧
    endsInP State.reset.cfg 0xFF000 0x1000 = true ∧ 0xFF000 % 0x1000 = 0 ∧
    translate State.reset.cfg .progErase (0xFFFF8 : Addr).toNat (8 : Addr).toNat = some 0xFFFF8 ∧
    translate State.reset.cfg .progErase (0x100000 : Addr).toNat (0 : Addr).toNat = some 0x100000 ∧
    translate State.reset.cfg .verify (0xFF000 : Addr).toNat 0 = some 0xFF000 ∧
    translate State.reset.cfg .verify (0xFF000 : Addr).toNat (0xFFFF * 8) = some 0xFF000 ∧
    translate State.reset.cfg .progErase (0xFFFF8 : Addr).toNat (1 * 8) = some 0xFFFF8 ∧
    State.reset.cfg.dflashPhysSize ≠ 0 := by
  decide

theorem test_meets_WrapperLoopStopsAtFirstFailure :
    let c : ReqCtl := .commands .plain 0 [.eraseSector 0, .eraseSector 0x1000]
    (hostAt c .none).req.call = .none ∧ (hostAt c (.done 4)).req.call = .done 4 ∧
      (hostAt c (.done 0)).req.ctl = c ∧
      (hostAt (.commands .once 0 [.readOnce 0]) (.done 0)).req.call = .done 0 ∧
      (hostAt (.commands .resource 0 [.readResource 0 0]) (.done 0)).req.call = .done 0 ∧
      (hostAt (.commands .init 0 [.readResource 0 0]) (.done 0)).req.call = .done 0 ∧
      makes (inputsOf (List.replicate 6 (.host .go))) (List.replicate 6 (.host .go)) := by
  refine ⟨by decide, by decide, by decide, by decide, by decide, by decide, rfl⟩

theorem test_meets_ProgramCheckReportsTheFailure :
    let s := hostAt (.commands (.check 0x100) 3 [.programCheck 0x10C 1 0]) (.done 0x0010)
    s.req.call = .done 0x0010 ∧
      makes (inputsOf (List.replicate (s.cfg.failDataSlots.length + 2) (.host .go)))
        (List.replicate (s.cfg.failDataSlots.length + 2) (.host .go)) := ⟨rfl, rfl⟩

theorem test_meets_setters : State.reset.req.ctl = .idle ∧ State.reset.serving = false ∧
    State.reset.ccif = true ∧ State.reset.cfg.wf = true ∧ (fstatAt 0x00).ccif = false ∧
    (fstatAt 0x00).serving = false := by decide

theorem test_meets_setter_runs :
    let ms : List Move := .host (.call (.setProtection .pflash 0x0000FFFF) { fails := false, pick := 0 }) ::
      List.replicate 21 (.host .go)
    makes (inputsOf ms) ms := rfl

theorem test_meets_FlashInitWaitsAndSkipsWithoutDFlash :
    let s := { State.reset with cfg := { Config.standard with dflashPhysSize := 0 } }
    let d := { s with req := { s.req with initDone := true } }
    s.req.ctl = .idle ∧ s.ccif = true ∧ s.cfg.dflashPhysSize = 0 ∧ s.req.initDone = false ∧
      d.req.initDone = true ∧ d.cfg.dflashSize ≠ 0 ∧
      (inFlight State.reset).req.ctl = .idle ∧ (inFlight State.reset).ccif = false := by decide

theorem test_meets_FlashInitDiscoversSizes : State.reset.ready = true ∧ State.reset.req.ctl = .idle ∧
    State.reset.swp.state = .idle ∧ State.reset.cfg.debugEnable = false ∧
    State.reset.cfg.dflashPhysSize ≠ 0 ∧ State.reset.cfg.layout.ok = true ∧
    State.reset.req.initDone = false ∧ Config.standard.departTable.get 0 = Config.standard.dflashSize ∧
    { Config.standard with dflashSize := 0 }.departTable.get 0 ≠ 0 ∧ outcomeCode quietOutcome = 0x0000 ∧
    outcomeCode { quietOutcome with accerr := true } ≠ 0x0000 := by decide

/-- Both branches of the FSEC test: 0xFE shows the unsecured pattern, 0xFF does not. -/
theorem test_meets_SecurityBypassReadsFsecFirst :
    (0xFE : Byte) &&& Config.standard.unsecureMask = Config.standard.unsecureValue ∧
      (0xFF : Byte) &&& Config.standard.unsecureMask ≠ Config.standard.unsecureValue := by decide

theorem test_meets_GettersAndBitPrimitives : State.reset.req.ctl = .idle ∧
    (hostAt (.testBit .fsec 1) .none).req.ctl = .testBit .fsec 1 ∧
    (∃ t, hostWrite .fdprot 0 (hostAt (.rmwWrite .fdprot 0) .none) = .next t) ∧
    hostWrite .fsec 0 (hostAt (.rmwWrite .fsec 0) .none) = .fault .readOnlyRegister ∧
    makes (inputsOf (.host (.call .getSecurityState { fails := false, pick := 0 }) ::
      List.replicate 2 (.host .go)))
      (.host (.call .getSecurityState { fails := false, pick := 0 }) ::
      List.replicate 2 (.host .go)) := ⟨rfl, rfl, ⟨_, rfl⟩, rfl, rfl⟩

end Sys2Proof.Tests
end

section
/-! PROOFS. The encoder and the decoder are inverse to each other (30_encoding.md R120-R134): an object laid out in
P_LAYOUT is decoded field by field, and its fields lay out the same object again. -/

namespace Sys2Proof.Machine

/-! ## Values and their bytes -/

theorem address_append (a : IAddr) :
    a.extractLsb' 16 8 ++ a.extractLsb' 8 8 ++ a.extractLsb' 0 8 = a := by
  rw [BitVec.extractLsb'_append_extractLsb'_eq_extractLsb' (by rfl),
    BitVec.extractLsb'_append_extractLsb'_eq_extractLsb' (by rfl)]
  exact BitVec.extractLsb'_eq_self

theorem count_append (c : BitVec 16) : c.extractLsb' 8 8 ++ c.extractLsb' 0 8 = c := by
  rw [BitVec.extractLsb'_append_extractLsb'_eq_extractLsb' (by rfl)]
  exact BitVec.extractLsb'_eq_self

theorem long_append (v : BitVec 32) :
    v.extractLsb' 24 8 ++ v.extractLsb' 16 8 ++ v.extractLsb' 8 8 ++ v.extractLsb' 0 8 = v := by
  rw [BitVec.extractLsb'_append_extractLsb'_eq_extractLsb' (by rfl),
    BitVec.extractLsb'_append_extractLsb'_eq_extractLsb' (by rfl),
    BitVec.extractLsb'_append_extractLsb'_eq_extractLsb' (by rfl)]
  exact BitVec.extractLsb'_eq_self

/-- Above its lowest byte an appended value is its high part. -/
theorem extract_append_high {w : Nat} (x : BitVec w) (b : Byte) (start : Nat) :
    (x ++ b).extractLsb' (start + 8) 8 = x.extractLsb' start 8 := by
  simpa using BitVec.extractLsb'_append_eq_of_le (xhi := x) (xlo := b) (Nat.le_add_left 8 start)

theorem extract_append_low {w : Nat} (x : BitVec w) (b : Byte) : (x ++ b).extractLsb' 0 8 = b :=
  BitVec.extractLsb'_append_eq_right

theorem countBytes_append (b0 b1 : Byte) : countBytes (b0 ++ b1) = [b0, b1] := by
  simp only [countBytes]
  rw [extract_append_high b0 b1 0, extract_append_low, BitVec.extractLsb'_eq_self]

theorem addrBytes_append (b0 b1 b2 : Byte) : addrBytes (b0 ++ b1 ++ b2) = [b0, b1, b2] := by
  simp only [addrBytes]
  rw [extract_append_high (b0 ++ b1) b2 8, extract_append_high b0 b1 0,
    extract_append_high (b0 ++ b1) b2 0, extract_append_low, extract_append_low,
    BitVec.extractLsb'_eq_self]

/-- The bytes of a longword put together from four bytes. -/
theorem extract_long (b0 b1 b2 b3 : Byte) :
    (b0 ++ b1 ++ b2 ++ b3).extractLsb' 24 8 = b0 ∧ (b0 ++ b1 ++ b2 ++ b3).extractLsb' 16 8 = b1 ∧
      (b0 ++ b1 ++ b2 ++ b3).extractLsb' 8 8 = b2 ∧ (b0 ++ b1 ++ b2 ++ b3).extractLsb' 0 8 = b3 := by
  rw [extract_append_high (b0 ++ b1 ++ b2) b3 16, extract_append_high (b0 ++ b1) b2 8,
    extract_append_high b0 b1 0, extract_append_high (b0 ++ b1 ++ b2) b3 8,
    extract_append_high (b0 ++ b1) b2 0, extract_append_high (b0 ++ b1 ++ b2) b3 0]
  exact ⟨BitVec.extractLsb'_eq_self, extract_append_low _ _, extract_append_low _ _,
    extract_append_low _ _⟩

theorem pack4_unpack4 (e : Endian) (b0 b1 b2 b3 : Byte) :
    pack4 e (unpack4 e b0 b1 b2 b3) = [b0, b1, b2, b3] := by
  cases e with
  | le =>
    obtain ⟨h3, h2, h1, h0⟩ := extract_long b3 b2 b1 b0
    simp [pack4, packBytes, unpack4, List.range_succ, h0, h1, h2, h3]
  | be =>
    obtain ⟨h0, h1, h2, h3⟩ := extract_long b0 b1 b2 b3
    simp [pack4, packBytes, unpack4, List.range_succ, h0, h1, h2, h3]

/-- The packed image of a longword has four bytes, which make it. -/
theorem unpack4_pack4 (e : Endian) (v : BitVec 32) :
    ∃ b0 b1 b2 b3, pack4 e v = [b0, b1, b2, b3] ∧ unpack4 e b0 b1 b2 b3 = v := by
  cases e <;> exact ⟨_, _, _, _, rfl, long_append v⟩

/-! ## Opcodes -/

theorem opcodeOf_opcodeByte (o : Opcode) : opcodeOf (opcodeByte o) = some o := by
  cases o <;> rfl

theorem opcodeByte_of_opcodeOf {b : Byte} {o : Opcode} (h : opcodeOf b = some o) : opcodeByte o = b := by
  simpa using List.find?_some h

/-! ## Objects of a listed command -/

theorem slots_ext {p q : Slots} (h : ∀ i : Slot, p.get i = q.get i) : p = q :=
  Vector.ext fun i hi => h ⟨i, hi⟩

/-- An EXECUTE request is a command in its layout exactly when it has a listed opcode, the `n` of its row, and 0
in the slots the row does not use. -/
theorem inLayout_iff {cfg : Config} {n : BitVec 4} {p : Slots} : inLayout cfg n p = true ↔
    ∃ o, opcodeOf p[0] = some o ∧ n.toNat = (cfg.layout.row o).n.val ∧
      ∀ i : Slot, i ≠ 0 → i ∉ (cfg.layout.row o).params → p.get i = 0 := by
  have hall : ∀ i : Slot, i ∈ allSlots := by decide
  unfold inLayout
  cases opcodeOf p[0] with
  | none => simp
  | some o =>
    simp [hall, or_iff_not_imp_left]

theorem commandOf_opcode (cfg : Config) (o : Opcode) (bytes : List Byte) :
    (commandOf cfg o bytes).p[0] = opcodeByte o :=
  laidOut_opcode (cfg.layout.row o) (opcodeByte o) bytes

theorem inLayout_commandOf (cfg : Config) (o : Opcode) (bytes : List Byte) :
    inLayout cfg (BitVec.ofNat 4 (commandOf cfg o bytes).n.val) (commandOf cfg o bytes).p = true := by
  refine inLayout_iff.mpr ⟨o, ?_, ?_, fun i h0 hi => laidOut_unused _ _ _ h0 hi⟩
  · rw [commandOf_opcode, opcodeOf_opcodeByte]
  · have := (commandOf cfg o bytes).n.isLt
    simp only [BitVec.toNat_ofNat]
    exact Nat.mod_eq_of_lt (by omega)

theorem decode_commandOf (cfg : Config) (o : Opcode) (bytes : List Byte) :
    decode cfg (requestOf (commandOf cfg o bytes))
      = .ok (decodeCommand cfg (commandOf cfg o bytes).p o) := by
  have hn := Laws.requestOf_admitted (commandOf cfg o bytes)
  simp only [requestOf, decode, inLayout_commandOf, commandOf_opcode, opcodeOf_opcodeByte]
  rw [if_neg (by omega)]
  rfl

/-- The operand bytes of a command object, in the order of its row. -/
def operandBytes (cfg : Config) (o : Opcode) (p : Slots) : List Byte :=
  (List.range o.arity).map (fieldByte (cfg.layout.row o) p)

/-- Every request that is a command in its layout is the object of its opcode and operand bytes. -/
theorem requestOf_operandBytes {cfg : Config} {n : BitVec 4} {p : Slots} {o : Opcode}
    (hl : cfg.layout.ok = true) (ho : opcodeOf p[0] = some o) (h : inLayout cfg n p = true) :
    requestOf (commandOf cfg o (operandBytes cfg o p)) = .execute n p := by
  obtain ⟨o', ho', hn, hz⟩ := inLayout_iff.mp h
  obtain rfl : o = o' := Option.some.inj (ho.symm.trans ho')
  have hrow := Layout.row_ok hl o
  obtain ⟨hlen, -, -⟩ := LayoutRow.ok_iff.mp hrow
  have hcount : BitVec.ofNat 4 (cfg.layout.row o).n.val = n := by
    rw [← hn, BitVec.ofNat_toNat, BitVec.setWidth_eq]
  have hslots : (commandOf cfg o (operandBytes cfg o p)).p = p := by
    refine slots_ext fun i => ?_
    by_cases h0 : i = 0
    · rw [h0]
      exact (laidOut_opcode _ _ _).trans (opcodeByte_of_opcodeOf ho)
    · by_cases hi : i ∈ (cfg.layout.row o).params
      · obtain ⟨j, hj⟩ := List.mem_iff_getElem?.mp hi
        obtain ⟨hjl, -⟩ := List.getElem?_eq_some_iff.mp hj
        exact (laidOut_param hrow hj).trans (by simp [operandBytes, fieldByte, hj, hlen ▸ hjl])
      · exact (laidOut_unused _ _ _ h0 hi).trans (hz i h0 hi).symm
  rw [requestOf, hslots]
  exact congrArg (Request.execute · p) hcount

/-! ## The fields of a command -/

theorem addrBytes_addrIn (cfg : Config) (o : Opcode) (p : Slots) :
    addrBytes (addrIn cfg o p)
      = [fieldByte (cfg.layout.row o) p 0, fieldByte (cfg.layout.row o) p 1,
          fieldByte (cfg.layout.row o) p 2] :=
  addrBytes_append _ _ _

theorem countBytes_countIn (cfg : Config) (o : Opcode) (p : Slots) :
    countBytes (countIn cfg o p)
      = [fieldByte (cfg.layout.row o) p 3, fieldByte (cfg.layout.row o) p 4] :=
  countBytes_append _ _

theorem pack4_longIn (cfg : Config) (o : Opcode) (p : Slots) (j : Nat) :
    pack4 cfg.endian (longIn cfg o p j)
      = [fieldByte (cfg.layout.row o) p j, fieldByte (cfg.layout.row o) p (j + 1),
          fieldByte (cfg.layout.row o) p (j + 2), fieldByte (cfg.layout.row o) p (j + 3)] :=
  pack4_unpack4 _ _ _ _ _

section Fields

variable {cfg : Config} (hl : cfg.layout.ok = true) (o : Opcode) (bytes : List Byte)
include hl

/-- Operand byte `j` of an object is the one it was laid out with. -/
theorem fieldByte_commandOf {j : Nat} (hj : j < o.arity) :
    fieldByte (cfg.layout.row o) (commandOf cfg o bytes).p j = bytes.getD j 0 :=
  fieldByte_laidOut (Layout.row_ok hl o) hj

theorem addrIn_commandOf (ho : 2 < o.arity) :
    addrIn cfg o (commandOf cfg o bytes).p = bytes.getD 0 0 ++ bytes.getD 1 0 ++ bytes.getD 2 0 := by
  simp only [addrIn, fieldByte_commandOf hl o bytes (show 0 < o.arity by omega),
    fieldByte_commandOf hl o bytes (show 1 < o.arity by omega), fieldByte_commandOf hl o bytes ho]

theorem countIn_commandOf (ho : 4 < o.arity) :
    countIn cfg o (commandOf cfg o bytes).p = bytes.getD 3 0 ++ bytes.getD 4 0 := by
  simp only [countIn, fieldByte_commandOf hl o bytes (show 3 < o.arity by omega),
    fieldByte_commandOf hl o bytes ho]

theorem longIn_commandOf {j : Nat} (hj : j + 3 < o.arity) :
    longIn cfg o (commandOf cfg o bytes).p j = unpack4 cfg.endian (bytes.getD j 0)
      (bytes.getD (j + 1) 0) (bytes.getD (j + 2) 0) (bytes.getD (j + 3) 0) := by
  simp only [longIn, fieldByte_commandOf hl o bytes (show j < o.arity by omega),
    fieldByte_commandOf hl o bytes (show j + 1 < o.arity by omega),
    fieldByte_commandOf hl o bytes (show j + 2 < o.arity by omega), fieldByte_commandOf hl o bytes hj]

end Fields

/-! ## Decode after encode -/

theorem SwapCodes.distinct_iff {c : SwapCodes} : c.distinct = true ↔
    (c.report ≠ c.setInd ∧ c.report ≠ c.setPrep ∧ c.report ≠ c.setComp) ∧
      (c.setInd ≠ c.setPrep ∧ c.setInd ≠ c.setComp) ∧ c.setPrep ≠ c.setComp := by
  simp [SwapCodes.distinct]

/-- A swap-control object is told apart by its code (R127, R134). -/
theorem decode_objPFlashSwap {cfg : Config} (hl : cfg.layout.ok = true) (a : IAddr) (code : Byte) :
    decode cfg (requestOf (objPFlashSwap cfg a code)) = .ok
      (if code = cfg.swapCode.report then .pFlashSwapReportStatus a
      else if code = cfg.swapCode.setInd then .pFlashSwapSetIndicatorAddress a
      else if code = cfg.swapCode.setPrep then .pFlashSwapSetInPrepare a
      else if code = cfg.swapCode.setComp then .pFlashSwapSetInComplete a
      else .pFlashSwap a code) := by
  have ha : addrIn cfg .pFlashSwap (commandOf cfg .pFlashSwap (addrBytes a ++ [code])).p = a :=
    (addrIn_commandOf hl .pFlashSwap _ (by decide)).trans (address_append a)
  have hc : fieldByte cfg.layout.pFlashSwap (commandOf cfg .pFlashSwap (addrBytes a ++ [code])).p 3
      = code := fieldByte_commandOf hl .pFlashSwap _ (by decide)
  simp only [objPFlashSwap, decode_commandOf, decodeCommand, decodeSwapControl, ha, hc]

/-- Settles O1: an object is decoded field by field, and a swap-control command is told apart by its code. -/
theorem encodedInstructionsDecodeBack : Obligations.EncodedInstructionsDecodeBack := by
  intro cfg i hdistinct hl hwf
  obtain ⟨⟨hri, hrp, hrc⟩, ⟨hip, hic⟩, hpc⟩ := SwapCodes.distinct_iff.mp hdistinct
  cases i
  case swap => rfl
  case execute n p =>
    simp only [Instr.wf, Bool.and_eq_true, decide_eq_true_eq, Bool.not_eq_true'] at hwf
    obtain ⟨hn, hlay⟩ := hwf
    simp [encode, decode, hlay, hn]
  case pFlashSwap a code =>
    simp only [Instr.wf, SwapCodes.has, Bool.not_eq_true', Bool.or_eq_false_iff, beq_eq_false_iff_ne]
      at hwf
    obtain ⟨⟨⟨hr, hi⟩, hp⟩, hc⟩ := hwf
    simp [encode, decode_objPFlashSwap hl, hr, hi, hp, hc]
  case pFlashSwapReportStatus a => simp [encode, decode_objPFlashSwap hl]
  case pFlashSwapSetIndicatorAddress a => simp [encode, decode_objPFlashSwap hl, hri.symm]
  case pFlashSwapSetInPrepare a => simp [encode, decode_objPFlashSwap hl, hrp.symm, hip.symm]
  case pFlashSwapSetInComplete a => simp [encode, decode_objPFlashSwap hl, hrc.symm, hic.symm, hpc.symm]
  case programCheck a margin v =>
    obtain ⟨b0, b1, b2, b3, hb, hv⟩ := unpack4_pack4 cfg.endian v
    simp (disch := decide) only [encode, objProgramCheck, decode_commandOf, decodeCommand,
      addrIn_commandOf hl, longIn_commandOf hl, fieldByte_commandOf hl]
    simp [addrBytes, address_append, hb, hv]
  case programLongword a v =>
    obtain ⟨b0, b1, b2, b3, hb, hv⟩ := unpack4_pack4 cfg.endian v
    simp (disch := decide) only [encode, objProgramLongword, decode_commandOf, decodeCommand,
      addrIn_commandOf hl, longIn_commandOf hl]
    simp [addrBytes, address_append, hb, hv]
  case programPhrase a v w =>
    obtain ⟨b0, b1, b2, b3, hb, hv⟩ := unpack4_pack4 cfg.endian v
    obtain ⟨c0, c1, c2, c3, hc, hw⟩ := unpack4_pack4 cfg.endian w
    simp (disch := decide) only [encode, objProgramPhrase, decode_commandOf, decodeCommand,
      addrIn_commandOf hl, longIn_commandOf hl]
    simp [addrBytes, address_append, hb, hv, hc, hw]
  case programOnce index v =>
    obtain ⟨b0, b1, b2, b3, hb, hv⟩ := unpack4_pack4 cfg.endian v
    simp (disch := decide) only [encode, objProgramOnce, decode_commandOf, decodeCommand,
      longIn_commandOf hl, fieldByte_commandOf hl]
    simp [hb, hv]
  case securityBypass key =>
    simp (disch := decide) only [encode, objSecurityBypass, decode_commandOf, decodeCommand,
      fieldByte_commandOf hl]
    refine congrArg (Except.ok ∘ Instr.securityBypass) (Vector.ext fun i hi => ?_)
    interval_cases i <;> simp
  case eraseAllBlock => exact decode_commandOf cfg .eraseAllBlock []
  case eraseAllBlockUnsecure => exact decode_commandOf cfg .eraseAllBlockUnsecure []
  all_goals
    simp (disch := decide) only [encode, objVerifyBlock, objVerifySection, objReadResource,
      objEraseBlock, objEraseSector, objProgramSection, objVerifyAllBlock, objReadOnce,
      objProgramPartition, objSetEERAM, decode_commandOf, decodeCommand,
      addrIn_commandOf hl, countIn_commandOf hl, fieldByte_commandOf hl]
    simp [addrBytes, countBytes, address_append, count_append]

/-! ## Encode after decode -/

theorem encode_decodeSwapControl (cfg : Config) (p : Slots) :
    encode cfg (decodeSwapControl cfg p)
      = requestOf (objPFlashSwap cfg (addrIn cfg .pFlashSwap p) (fieldByte cfg.layout.pFlashSwap p 3)) := by
  simp only [decodeSwapControl]
  (repeat' split) <;> simp_all [encode]

/-- The fields of a command, put together again, are its operand bytes. -/
theorem encode_decodeCommand (cfg : Config) (o : Opcode) (p : Slots) :
    encode cfg (decodeCommand cfg p o) = requestOf (commandOf cfg o (operandBytes cfg o p)) := by
  cases o
  case pFlashSwap =>
    rw [decodeCommand, encode_decodeSwapControl, objPFlashSwap, addrBytes_addrIn]
    rfl
  all_goals
    simp only [decodeCommand, encode, objVerifyBlock, objVerifySection, objProgramCheck,
      objReadResource, objProgramLongword, objProgramPhrase, objEraseBlock, objEraseSector,
      objProgramSection, objVerifyAllBlock, objReadOnce, objProgramOnce, objEraseAllBlock,
      objSecurityBypass, objEraseAllBlockUnsecure, objProgramPartition, objSetEERAM,
      addrBytes_addrIn, countBytes_countIn, pack4_longIn]
    rfl

/-- A decoded swap-control command is the generic one only where its code is none of the four. -/
theorem wf_decodeSwapControl (cfg : Config) (p : Slots) : (decodeSwapControl cfg p).wf cfg = true := by
  simp only [decodeSwapControl]
  (repeat' split) <;> simp_all [Instr.wf, SwapCodes.has]

theorem wf_decodeCommand (cfg : Config) (o : Opcode) (p : Slots) :
    (decodeCommand cfg p o).wf cfg = true := by
  cases o
  case pFlashSwap => exact wf_decodeSwapControl cfg p
  all_goals rfl

/-- What a decoded request is: a SWAP, a command in its layout, or the row EXECUTE. -/
theorem decode_ok {cfg : Config} {r : Request} {i : Instr} (h : decode cfg r = .ok i) :
    (∃ addr, r = .swap addr ∧ i = .swap addr) ∨
    (∃ n p o, r = .execute n p ∧ opcodeOf p[0] = some o ∧ inLayout cfg n p = true ∧
      i = decodeCommand cfg p o) ∨
    (∃ n p, r = .execute n p ∧ n.toNat ≤ 11 ∧ inLayout cfg n p = false ∧ i = .execute n p) := by
  cases r with
  | swap addr => exact .inl ⟨addr, rfl, by cases h; rfl⟩
  | execute n p =>
    simp only [decode] at h
    split at h
    · cases h
    · split at h
      · rename_i hlay
        obtain ⟨o, ho, -⟩ := inLayout_iff.mp hlay
        rw [ho] at h
        exact .inr (.inl ⟨n, p, o, rfl, ho, hlay, by cases h; rfl⟩)
      · rename_i hn hlay
        exact .inr (.inr ⟨n, p, rfl, by omega, by simpa using hlay, by cases h; rfl⟩)

/-- Settles O2: each field is encoded as the bytes it was read from, and the other slots hold 0. -/
theorem decodedRequestsEncodeBack : Obligations.DecodedRequestsEncodeBack := by
  intro cfg r i hl h
  obtain ⟨addr, rfl, rfl⟩ | ⟨n, p, o, rfl, ho, hlay, rfl⟩ | ⟨n, p, rfl, hn, hlay, rfl⟩ := decode_ok h
  · exact ⟨rfl, rfl⟩
  · exact ⟨(encode_decodeCommand cfg o p).trans (requestOf_operandBytes hl ho hlay),
      wf_decodeCommand cfg o p⟩
  · exact ⟨rfl, by simp [Instr.wf, hn, hlay]⟩

end Sys2Proof.Machine
end

section
/-! PROOFS. What one step of each agent can do to the registers, the hidden state, the configuration and the
history, said once for each agent; and from it the access discipline (20_memory.md R91, 00_scope.md R14) and the
writers of the hidden state (10_state.md R37, R38, R61, R62, R65). -/

namespace Sys2Proof.Machine

/-! ## Passive changes -/

/-- From `s` to `t` the register accesses `l` are made, oldest first, and the registers, the controller and the
configuration stay as they are. -/
structure Passive (l : List Access) (s t : State) : Prop where
  win      : t.win = s.win
  nvm      : t.nvm = s.nvm
  cfg      : t.cfg = s.cfg
  initDone : t.req.initDone = s.req.initDone
  history  : ∃ h, t.history = h ++ s.history ∧ accesses h = l

theorem accessCount_eq (h : List Event) : accessCount h = (accesses h).length := by
  induction h with
  | nil => rfl
  | cons e h ih =>
    rw [accesses_cons, List.length_append, ← ih, ← List.singleton_append, accessCount_append, Nat.add_comm]
    cases e <;> rfl

theorem Passive.refl (s : State) : Passive [] s s := ⟨rfl, rfl, rfl, rfl, [], rfl, rfl⟩

theorem Passive.trans {l l' : List Access} {s t u : State} (h : Passive l s t) (h' : Passive l' t u) :
    Passive (l ++ l') s u := by
  obtain ⟨e, he, hl⟩ := h.history
  obtain ⟨e', he', hl'⟩ := h'.history
  refine ⟨h'.win.trans h.win, h'.nvm.trans h.nvm, h'.cfg.trans h.cfg, h'.initDone.trans h.initDone,
    e' ++ e, ?_, ?_⟩
  · rw [he', he, List.append_assoc]
  · rw [accesses_append, hl, hl']

/-- A passive change after one without accesses. -/
theorem Passive.after {l : List Access} {s t u : State} (h' : Passive l t u) (h : Passive [] s t) :
    Passive l s u := h.trans h'

theorem passive_logRead (who : Agent) (r : Reg) (s : State) : Passive [.read r] s (logRead who r s) :=
  ⟨rfl, rfl, rfl, rfl, [_], rfl, rfl⟩

theorem passive_endOperation (f : Fsm) (o : Owner) (r : Code) (s : State) :
    Passive [] s (endOperation f o r s) := by
  refine ⟨by simp, by simp, by simp, ?_,
    (if s.cfg.debugEnable then [.debugBreak f] else []) ++ [.done f o r], ?_, ?_⟩
  · cases o <;> simp [endOperation, deliver]
  · simp [endOperation_history]
  · split <;> rfl

theorem passive_hostGoto (c : ReqCtl) (s : State) : Passive [] s (hostGoto c s) :=
  ⟨rfl, rfl, rfl, rfl, [], rfl, rfl⟩

theorem passive_hostReturn (r : ProcResult) (s : State) : Passive [] s (hostReturn r s) :=
  ⟨rfl, rfl, rfl, rfl, [_], rfl, rfl⟩

theorem passive_hostReturnCode (c : Code) (s : State) : Passive [] s (hostReturnCode c s) :=
  passive_hostReturn _ s

theorem passive_swpGoto (st : SwpState) (s : State) : Passive [] s (swpGoto st s) :=
  ⟨rfl, rfl, rfl, rfl, [], rfl, rfl⟩

theorem passive_acceptExecute (n : Slot) (p : Slots) (s : State) : Passive [] s (acceptExecute n p s) := by
  refine ⟨by simp, by simp, by simp, ?_, [], by simp, rfl⟩
  unfold acceptExecute awaitDone
  split <;> rfl

theorem passive_offerObject {k : CommandObject} {s t : State} (h : offerObject k s = .next t) :
    Passive [] s t := by
  obtain ⟨-, e⟩ | ⟨-, e⟩ := offerObject_cases k s <;> rw [e] at h <;> cases h
  · exact passive_acceptExecute k.n k.p s
  · exact .refl s

/-- What an offered instruction does at once touches none of the registers. -/
theorem passive_exec {i : Instr} {s t : State} (h : exec i s = .next t) : Passive [] s t := by
  cases hk : commandObject s.cfg i with
  | some k => exact passive_offerObject (exec_of_commandObject hk ▸ h)
  | none =>
    cases i <;> simp only [commandObject, reduceCtorEq] at hk
    case execute n p =>
      split at hk
      · cases hk
      · simp_all [exec, execExecute]
    case swap addr =>
      obtain ⟨-, e⟩ | ⟨-, e⟩ := execSwap_cases addr s <;> rw [exec, e] at h <;> cases h
      · refine ⟨by simp, by simp, by simp, ?_, [], by simp, rfl⟩
        unfold awaitDone
        split <;> rfl
      · exact .refl s

/-- An offer at SEQ's port is passive, whoever holds the port. -/
theorem passive_offer {i : Instr} {o : Owner} {s t : State} (h : exec i { s with port := o } = .next t) :
    Passive [] s t :=
  (passive_exec h).after ⟨rfl, rfl, rfl, rfl, [], rfl, rfl⟩

theorem passive_arrayRead {addr : Addr} {s t : State} (h : arrayRead addr s = .next t) :
    Passive [] s t := by
  obtain ⟨x, -, -, rfl⟩ := arrayRead_next h
  exact ⟨rfl, rfl, rfl, rfl, [_], rfl, rfl⟩

/-! ## SEQ, SWP, the callback and the environment -/

/-- A step of SEQ reads FSTAT, writes one of its two values to it, or writes the slot LOAD has reached. -/
inductive SeqEffect (s t : State) : Prop
  | quiet (h : Passive [] s t)
  | read (h : Passive [.read .fstat] s t)
  | fstat {v : Byte} (hv : v = 0x70 ∨ v = 0x80) (h : Passive [] (writeFstat .seq v s) t)
  | load {v : Byte} (hs : s.seq.state = .load) (h : Passive [] (writeFccob .seq s.seq.k v s) t)

theorem seqStep_effect (s : State) : SeqEffect s (seqStep s) := by
  have read {t : State} (h : Passive [] (logRead .seq .fstat s) t) : SeqEffect s t :=
    .read ((passive_logRead .seq .fstat s).trans h)
  unfold seqStep
  split
  · exact .quiet (.refl s)
  · cases hs : s.seq.state <;> simp only
    case waitReady =>
      unfold seqWaitReady
      simp only
      split <;> exact read ⟨rfl, rfl, rfl, rfl, [], rfl, rfl⟩
    case clearErr => exact .fstat (.inl rfl) ⟨rfl, rfl, rfl, rfl, [], rfl, rfl⟩
    case load =>
      refine .load (v := s.seq.buf.get s.seq.k) hs ?_
      unfold seqLoad
      simp only
      split <;> exact ⟨rfl, rfl, rfl, rfl, [], rfl, rfl⟩
    case launch => exact .fstat (.inr rfl) ⟨rfl, rfl, rfl, rfl, [], rfl, rfl⟩
    case poll =>
      unfold seqPoll
      simp only
      (repeat' split)
      · exact read ⟨rfl, rfl, rfl, rfl, [], rfl, rfl⟩
      · exact read ⟨rfl, rfl, rfl, rfl, [_], rfl, rfl⟩
      · exact read (.refl _)
    case decode =>
      exact read ((passive_endOperation _ _ _ _).after ⟨rfl, rfl, rfl, rfl, [], rfl, rfl⟩)
    all_goals exact .quiet (.refl s)

theorem passive_swpCommand {offer : State → Result} {next : SwpState} {s t : State}
    (ho : ∀ u, offer u = .next t → Passive [] u t) (h : swpCommand offer next s = .next t) :
    Passive [] s t := by
  obtain ⟨-, e⟩ | ⟨-, e⟩ | ⟨-, e⟩ | ⟨r, -, -, e⟩ := swpCommand_cases offer next s <;> rw [e] at h
  · exact (ho _ h).after ⟨rfl, rfl, rfl, rfl, [], rfl, rfl⟩
  · cases h; exact .refl s
  · cases h; exact passive_swpGoto next s
  · cases h; exact (passive_endOperation _ _ _ _).after ⟨rfl, rfl, rfl, rfl, [], rfl, rfl⟩

/-- A step of SWP changes no register, and reads FCCOB5 or makes no access (R91). -/
theorem swpStep_effect {s t : State} (h : swpStep s = .next t) :
    Passive [] s t ∨ Passive [.read (.fccob 5)] s t := by
  have readMode : Passive [.read (.fccob 5)] s (swpReadMode s) :=
    (passive_logRead .swp (.fccob 5) s).trans ⟨rfl, rfl, rfl, rfl, [], rfl, rfl⟩
  have finish (v : Code) : Passive [] s (swpFinish v s) :=
    (passive_endOperation _ _ _ _).after ⟨rfl, rfl, rfl, rfl, [], rfl, rfl⟩
  have command {k : State → CommandObject} {next : SwpState}
      (h : swpCommand (fun u => offerObject (k u) u) next s = .next t) : Passive [] s t :=
    passive_swpCommand (fun _ h => passive_offerObject h) h
  have wait {leave : Bool} (h : swpWait leave s = .next t) :
      Passive [] s t ∨ Passive [.read (.fccob 5)] s t := by
    unfold swpWait at h
    (repeat' split at h)
    · cases h; exact .inl (passive_swpGoto _ s)
    · cases h; exact .inr readMode
    · cases h; exact .inl (passive_swpGoto _ s)
    · exact .inl (command h)
  unfold swpStep at h
  split at h
  · cases h; exact .inl (.refl s)
  · cases hs : s.swp.state <;> simp only [hs] at h
    case idle => cases h; exact .inl (.refl s)
    case check =>
      cases h
      refine .inl ?_
      unfold swpCheck
      split
      · exact ⟨rfl, rfl, rfl, rfl, [], rfl, rfl⟩
      · exact finish _
    case readMode =>
      cases h
      exact .inr (readMode.trans (passive_swpGoto _ _))
    case dispatch =>
      cases h
      refine .inl ?_
      unfold swpDispatch
      simp only
      (repeat' split)
      · exact ⟨rfl, rfl, rfl, rfl, [], rfl, rfl⟩
      · exact ⟨rfl, rfl, rfl, rfl, [], rfl, rfl⟩
      · exact ⟨rfl, rfl, rfl, rfl, [], rfl, rfl⟩
      · exact ⟨rfl, rfl, rfl, rfl, [], rfl, rfl⟩
      · exact finish _
    case waitUninit => exact wait h
    case waitReady => exact wait h
    case waitComp => exact wait h
    all_goals exact .inl (command h)

theorem cbStep_effect {m : CbMove} {s t : State} (h : cbStep m s = .next t) : Passive [] s t := by
  by_cases hc : s.seq.state = .cbWait
  · obtain ⟨-, rfl⟩ | ⟨addr, -, -, ha⟩ := cbStep_next hc h
    · exact ⟨rfl, rfl, rfl, rfl, [_], rfl, rfl⟩
    · exact passive_arrayRead ha
  · simp only [cbStep, beq_iff_eq, hc, if_false] at h
    cases h
    exact .refl s

theorem resumeFsm_effect (f : Fsm) (s : State) : Passive [] s (resumeFsm f s) := by
  cases f <;> unfold resumeFsm <;> simp only <;> split
  · exact ⟨rfl, rfl, rfl, rfl, [_], rfl, rfl⟩
  · exact .refl s
  · exact ⟨rfl, rfl, rfl, rfl, [_], rfl, rfl⟩
  · exact .refl s

/-- A reset goes through only in a quiet block. -/
theorem resetStep_next {l : Launch} {s t : State} (h : resetStep l s = .next t) : s.quiet = true ∧
    t = State.launch s.cfg l s.nvm.flash s.nvm.ifr s.nvm.eeram s.history s.inputs s.tick := by
  unfold resetStep at h
  split at h <;> cases h
  exact ⟨by assumption, rfl⟩

theorem lowPowerStep_next {s t : State} (h : lowPowerStep s = .next t) : t = s := by
  unfold lowPowerStep at h
  split at h <;> cases h
  rfl

/-! ## HOST -/

theorem passive_hostCommands (goal : Goal) (todo : List Instr) (s : State) :
    Passive [] s (hostCommands goal todo s) := by
  cases todo with
  | nil => exact passive_hostReturnCode _ s
  | cons i t => exact passive_hostGoto _ s

theorem passive_hostChecked (c : Except Code Nat) (goal : Goal) (todo : Nat → List Instr) (s : State) :
    Passive [] s (hostChecked c goal todo s) := by
  cases c with
  | error e => exact passive_hostReturnCode e s
  | ok a => exact passive_hostCommands goal _ s

theorem passive_hostUnits {c : Except Code Nat} {goal : Goal} {enough : Bool} {todo : Nat → List Instr}
    {s t : State} (h : hostUnits c goal enough todo s = .next t) : Passive [] s t := by
  cases c with
  | error e => cases h; exact passive_hostReturnCode e s
  | ok a =>
    simp only [hostUnits] at h
    split at h
    · cases h; exact passive_hostCommands goal _ s
    · cases h

theorem passive_hostCapable (cap : Option Code) {k : State → State} {s : State}
    (hk : Passive [] s (k s)) : Passive [] s (hostCapable cap k s) := by
  cases cap with
  | some c => exact passive_hostReturnCode c s
  | none => exact hk

/-- The start of a procedure makes no register access (R264). -/
theorem passive_hostStart {p : Proc} {cap : CapDraw} {s t : State} (h : hostStart p cap s = .next t) :
    Passive [] s t := by
  cases p <;> simp only [hostStart, reduceCtorEq, Host.Outcome.next.injEq] at h
  case request r =>
    unfold hostRequest at h
    split at h
    · cases h
    · exact (passive_offer h).after (passive_hostGoto _ s)
  case programLongword => exact passive_hostUnits h
  case programPhrase => exact passive_hostUnits h
  case programCheck => exact passive_hostUnits h
  case deFlashPartition => exact h ▸ passive_hostCapable _ (passive_hostCommands _ _ s)
  case setEEEEnable => exact h ▸ passive_hostCapable _ (passive_hostCommands _ _ s)
  case eraseSector => exact h ▸ passive_hostChecked _ _ _ s
  case eraseBlock => exact h ▸ passive_hostChecked _ _ _ s
  case verifyBlock => exact h ▸ passive_hostChecked _ _ _ s
  case verifySection => exact h ▸ passive_hostChecked _ _ _ s
  case programSection => exact h ▸ passive_hostChecked _ _ _ s
  case verifyAllBlock => exact h ▸ passive_hostCommands _ _ s
  case eraseAllBlock => exact h ▸ passive_hostCommands _ _ s
  case readOnce => exact h ▸ passive_hostCommands _ _ s
  case programOnce => exact h ▸ passive_hostCommands _ _ s
  case readResource => exact h ▸ passive_hostCommands _ _ s
  case pflashSwap => exact h ▸ passive_hostCommands _ _ s
  all_goals exact h ▸ passive_hostGoto _ s

theorem passive_hostCommandsEnd (goal : Goal) (s : State) : Passive [] s (hostCommandsEnd goal s) := by
  cases goal
  case plain => exact passive_hostReturnCode _ s
  case check => exact passive_hostReturnCode _ s
  all_goals exact passive_hostGoto _ s

theorem passive_hostFailed (goal : Goal) (k : Nat) (r : Code) (s : State) :
    Passive [] s (hostFailed goal k r s) := by
  cases goal
  case check => exact passive_hostGoto _ s
  all_goals exact passive_hostReturnCode _ s

theorem passive_hostCommandStep {goal : Goal} {k : Nat} {todo : List Instr} {s t : State}
    (h : hostCommandStep goal k todo s = .next t) : Passive [] s t := by
  unfold hostCommandStep at h
  (repeat' split at h)
  · cases h; exact passive_hostCommandsEnd goal s
  · exact passive_offer h
  · cases h; exact .refl s
  · cases h; exact passive_hostCommandsEnd goal s
  · cases h; exact passive_hostGoto _ s
  · cases h; exact passive_hostFailed goal k _ s

/-- HOST's control state is one of those in which FlashInit may store the sizes (R282). -/
def ReqCtl.mayStoreSizes (c : ReqCtl) : Prop :=
  c = .initPoll ∨ ∃ r a todo got, c = .readBack .init r a todo got

/-- A step of HOST makes at most one register access: it changes no register, makes one write, or is FlashInit's
store of the sizes. -/
inductive HostEffect (m : ReqMove) (s t : State) : Prop
  | passive {l : List Access} (hl : l.length ≤ 1) (h : Passive l s t)
  | write {r : Reg} {v : Byte} {u : State} (hw : hostWrite r v s = .next u) (h : Passive [] u t)
      (he : t.history = u.history ∨ ∃ e, t.history = e :: u.history)
  | sizes {l : List Access} {code : Code} {dflash eee : Addr} {u : State} (hm : m = .go)
      (hc : s.req.ctl.mayStoreSizes) (hl : l.length ≤ 1) (h : Passive l s u)
      (hs : initStore code dflash eee u = .next t)

/-- HOST's step of one write that goes on in its control state. -/
theorem hostAfterWrite_next {r : Result} {k : State → State} {t : State} (h : hostAfterWrite r k = .next t) :
    ∃ u, r = .next u ∧ t = k u := by
  cases r <;> cases h
  exact ⟨_, rfl, rfl⟩

theorem hostGo_effect {s t : State} (h : hostGo s = .next t) : HostEffect .go s t := by
  have quiet {u : State} (h : Passive [] s u) : HostEffect .go s u := .passive (by simp) h
  have read {r : Reg} {u : State} (h : Passive [] (logRead .host r s) u) : HostEffect .go s u :=
    .passive (by simp) ((passive_logRead .host r s).trans h)
  have write {r : Reg} {v : Byte} {c : ReqCtl}
      (h : hostAfterWrite (hostWrite r v s) (hostGoto c) = .next t) : HostEffect .go s t := by
    obtain ⟨u, hw, rfl⟩ := hostAfterWrite_next h
    exact .write hw (passive_hostGoto c u) (.inl rfl)
  unfold hostGo at h
  cases hc : s.req.ctl <;> simp only [hc] at h
  case idle => cases h; exact quiet (.refl s)
  case commands => exact quiet (passive_hostCommandStep h)
  case readBack goal code failAddr todo got =>
    cases todo with
    | nil =>
      cases goal
      case init => exact .sizes rfl (.inr ⟨_, _, _, _, hc⟩) (by simp) (.refl s) h
      all_goals
        cases h
        exact quiet (passive_hostReturn _ s)
    | cons i todo => cases h; exact read (passive_hostGoto _ _)
  case initPoll =>
    (repeat' split at h)
    · cases h; exact read (.refl _)
    · exact .sizes rfl (.inl hc) (by simp) (passive_logRead .host .fstat s) h
    · cases h; exact read (passive_hostCommands _ _ _)
  case getRegs todo got =>
    cases todo with
    | nil => cases h; exact quiet (passive_hostReturn _ s)
    | cons r todo => cases h; exact read (passive_hostGoto _ _)
  case bypass key =>
    split at h <;> cases h
    · exact read (passive_hostReturnCode _ _)
    · exact read (passive_hostCommands _ _ _)
  case protStatus regs new =>
    split at h <;> cases h
    · exact read (passive_hostGoto _ _)
    · exact read (passive_hostReturnCode _ _)
  case protOld regs new todo old =>
    cases todo with
    | nil => cases h; exact quiet (passive_hostGoto _ s)
    | cons r todo => cases h; exact read (passive_hostGoto _ _)
  case protProbe regs new old todo =>
    cases todo with
    | nil => cases h; exact quiet (passive_hostGoto _ s)
    | cons r todo => exact write h
  case protReadback regs new old todo probe =>
    cases todo with
    | nil =>
      cases h
      unfold protDecide
      split
      · exact quiet (passive_hostGoto _ s)
      · exact quiet (passive_hostReturnCode _ s)
    | cons r todo => cases h; exact read (passive_hostGoto _ _)
  case protWrite todo new =>
    split at h
    · exact write h
    · cases h; exact quiet (passive_hostReturnCode _ s)
  case testBit r m => cases h; exact read (passive_hostReturn _ _)
  case rmwRead r m set => cases h; exact read (passive_hostGoto _ _)
  case rmwWrite r v =>
    obtain ⟨u, hw, rfl⟩ := hostAfterWrite_next h
    exact .write hw (passive_hostReturnCode _ u) (.inr ⟨_, rfl⟩)

theorem hostRead_effect {r : Reg} {s t : State} (h : hostRead r s = .next t) : Passive [.read r] s t := by
  unfold hostRead at h
  split at h
  · cases h
  · cases h; exact passive_logRead .host r s

theorem hostStep_effect {m : ReqMove} {s t : State} (h : hostStep m s = .next t) : HostEffect m s t := by
  cases m with
  | call p cap =>
    simp only [hostStep] at h
    split at h
    · exact .passive (by simp) (passive_hostStart h)
    · cases h; exact .passive (by simp) (.refl s)
  | go => exact hostGo_effect h
  | read r => exact .passive (by simp) (hostRead_effect h)
  | write r v => exact .write h (.refl t) (.inl rfl)
  | arrayRead addr =>
    obtain ⟨r, -, -, rfl⟩ | ⟨-, ha⟩ := hostMemRead_next h
    · exact .passive (by simp) (passive_logRead .host r s)
    · exact .passive (by simp) (passive_arrayRead ha)

/-- A HOST write that goes on is one access. -/
theorem hostWrite_history {r : Reg} {v : Byte} {s t : State} (h : hostWrite r v s = .next t) :
    t.history = .regWrite .host r (regAddr s.cfg r) v :: s.history := by
  obtain ⟨-, h⟩ := hostWrite_next h
  obtain ⟨rfl, rfl⟩ | ⟨rfl, rfl⟩ | ⟨i, rfl, -, rfl⟩ | ⟨i, rfl, -, rfl⟩ | ⟨rfl, -, rfl⟩ | ⟨rfl, -, rfl⟩ := h
    <;> simp

/-! ## Accesses of a step -/

/-- The register accesses made from `s` to `t`, oldest first. -/
def Made (l : List Access) (s t : State) : Prop :=
  ∃ h, t.history = h ++ s.history ∧ accesses h = l

theorem Made.trans {l l' : List Access} {s t u : State} (h : Made l s t) (h' : Made l' t u) :
    Made (l ++ l') s u := by
  obtain ⟨e, he, rfl⟩ := h
  obtain ⟨e', he', rfl⟩ := h'
  exact ⟨e' ++ e, by rw [he', he, List.append_assoc], accesses_append e' e⟩

/-- A write, and what follows it without an access. -/
theorem made_write {who : Agent} {r : Reg} {a : Addr} {v : Byte} {s u t : State}
    (hu : u.history = .regWrite who r a v :: s.history) (h : Passive [] u t) : Made [.write r v] s t := by
  obtain ⟨e, he, hl⟩ := h.history
  refine ⟨e ++ [.regWrite who r a v], ?_, ?_⟩
  · rw [he, hu]; simp
  · rw [accesses_append, hl]; rfl

/-- The accesses an agent may make in one step, `n` being `seq_n` (R14, R91). -/
def MayAccess (n : Slot) (l : List Access) : Move → Prop
  | .seq => l.length ≤ 1 ∧ ∀ x ∈ l, x = .read .fstat ∨ x = .write .fstat 0x70 ∨
      x = .write .fstat 0x80 ∨ ∃ j v, x = .write (.fccob j) v ∧ j.val ≤ n.val
  | .swp => l = [] ∨ l = [.read (.fccob 5)]
  | .host _ => l.length ≤ 1
  | .nvm _ | .cb _ | .debugResume _ | .reset _ | .lowPower => l = []

theorem made_seqStep (s : State) (hk : s.seq.state = .load → s.seq.k.val ≤ s.seq.n.val) :
    ∃ l, Made l s (seqStep s) ∧ MayAccess s.seq.n l .seq := by
  unfold MayAccess
  cases seqStep_effect s with
  | quiet h => exact ⟨_, h.history, by simp⟩
  | read h => exact ⟨_, h.history, by simp⟩
  | fstat hv h => exact ⟨_, made_write (writeFstat_history _ _ s) h, by rcases hv with rfl | rfl <;> simp⟩
  | load hs h => exact ⟨_, made_write (writeFccob_history _ _ _ s) h, by simpa using hk hs⟩

theorem made_hostStep {m : ReqMove} {s t : State} (h : hostStep m s = .next t) :
    ∃ l, Made l s t ∧ l.length ≤ 1 := by
  cases hostStep_effect h with
  | passive hl h => exact ⟨_, h.history, hl⟩
  | write hw h _ => exact ⟨_, made_write (hostWrite_history hw) h, by simp⟩
  | sizes _ _ hl hp hs =>
    obtain ⟨rfl, -, -⟩ := initStore_next hs
    obtain ⟨e, he, hacc⟩ := hp.history
    exact ⟨_, ⟨_ :: e, congrArg _ he, (accesses_cons _ _).trans (by rw [hacc]; exact List.append_nil _)⟩, hl⟩

/-- What every step accesses. -/
theorem stepInput_made {i : Input} {s t : State} (hk : s.seq.state = .load → s.seq.k.val ≤ s.seq.n.val)
    (h : stepInput i s = .next t) : ∃ l, Made l s t ∧ MayAccess s.seq.n l i.move := by
  obtain ⟨rsv, m⟩ := i
  cases m with
  | seq => cases h; exact made_seqStep (floatFstat rsv s) hk
  | swp =>
    obtain hp | hp := swpStep_effect (s := floatFstat rsv s) h
    · exact ⟨_, hp.history, .inl rfl⟩
    · exact ⟨_, hp.history, .inr rfl⟩
  | nvm o => cases h; exact ⟨[], ⟨[], nvmStep_history o (floatFstat rsv s), rfl⟩, rfl⟩
  | cb q => exact ⟨[], (cbStep_effect (s := floatFstat rsv s) h).history, rfl⟩
  | host q => exact made_hostStep (s := floatFstat rsv s) h
  | debugResume f => cases h; exact ⟨[], (resumeFsm_effect f (floatFstat rsv s)).history, rfl⟩
  | reset l =>
    obtain ⟨-, rfl⟩ := resetStep_next h
    exact ⟨[], ⟨[], rfl, rfl⟩, rfl⟩
  | lowPower =>
    obtain rfl := lowPowerStep_next h
    exact ⟨[], ⟨[], rfl, rfl⟩, rfl⟩

/-- Settles O28: the accesses of a step are those its agent's effect names. -/
theorem accessDiscipline : Obligations.AccessDiscipline := by
  intro i s t hk h
  obtain ⟨l, ⟨e, he, rfl⟩, hm⟩ := stepInput_made hk h
  refine ⟨e, he, ?_⟩
  rw [accessCount_eq]
  cases hi : i.move <;> rw [hi] at hm <;> simp only [MayAccess] at hm
  case seq =>
    obtain ⟨hl, hx⟩ := hm
    exact ⟨hl, fun _ => hx, by simp, by simp⟩
  case swp => obtain hl | hl := hm <;> simp [hl]
  case host q => exact ⟨hm, by simp, by simp, by simp⟩
  all_goals simp [hm]

/-! ## The hidden state -/

/-- The hidden state that only a completion or a reset may change stays as it is. -/
structure KeepsHidden (s t : State) : Prop where
  protMode  : t.nvm.protMode = s.nvm.protMode
  fopt      : t.win.fopt = s.win.fopt
  fsec      : t.win.fsec = s.win.fsec
  flash     : t.nvm.flash = s.nvm.flash
  ifr       : t.nvm.ifr = s.nvm.ifr
  eeram     : t.nvm.eeram = s.nvm.eeram
  swapState : t.nvm.swapState = s.nvm.swapState

theorem KeepsHidden.trans {s t u : State} (h : KeepsHidden s t) (h' : KeepsHidden t u) : KeepsHidden s u :=
  ⟨h'.protMode.trans h.protMode, h'.fopt.trans h.fopt, h'.fsec.trans h.fsec, h'.flash.trans h.flash,
    h'.ifr.trans h.ifr, h'.eeram.trans h.eeram, h'.swapState.trans h.swapState⟩

theorem Passive.keepsHidden {l : List Access} {s t : State} (h : Passive l s t) : KeepsHidden s t := by
  constructor <;> simp only [h.win, h.nvm]

theorem writeFstat_keepsHidden (who : Agent) (v : Byte) (s : State) :
    KeepsHidden s (writeFstat who v s) ∧ (writeFstat who v s).win.fcnfg = s.win.fcnfg := by
  obtain ⟨-, h⟩ | ⟨-, h⟩ := storeFstat_cases v (logWrite who .fstat v s) <;> rw [writeFstat, h] <;>
    exact ⟨⟨rfl, rfl, rfl, rfl, rfl, rfl, rfl⟩, rfl⟩

theorem writeFccob_keepsHidden (who : Agent) (i : Slot) (v : Byte) (s : State) :
    KeepsHidden s (writeFccob who i v s) ∧ (writeFccob who i v s).win.fcnfg = s.win.fcnfg := by
  unfold writeFccob storeFccob
  split <;> exact ⟨⟨rfl, rfl, rfl, rfl, rfl, rfl, rfl⟩, rfl⟩

/-- A HOST write changes nothing hidden, and FCNFG only where it is the register written. -/
theorem hostWrite_keepsHidden {r : Reg} {v : Byte} {s t : State} (h : hostWrite r v s = .next t) :
    KeepsHidden s t ∧ (t.win.fcnfg = s.win.fcnfg ∨ r = .fcnfg) ∧ t.cfg = s.cfg ∧ t.req = s.req := by
  obtain ⟨-, h⟩ := hostWrite_next h
  obtain ⟨-, rfl⟩ | ⟨rfl, rfl⟩ | ⟨i, -, -, rfl⟩ | ⟨i, -, -, rfl⟩ | ⟨-, -, rfl⟩ | ⟨-, -, rfl⟩ := h
  · obtain ⟨hk, hf⟩ := writeFstat_keepsHidden .host v s
    exact ⟨hk, .inl hf, by simp, by simp⟩
  · exact ⟨⟨rfl, rfl, rfl, rfl, rfl, rfl, rfl⟩, .inr rfl, rfl, rfl⟩
  · obtain ⟨hk, hf⟩ := writeFccob_keepsHidden .host i v s
    exact ⟨hk, .inl hf, by simp, by simp⟩
  all_goals exact ⟨⟨rfl, rfl, rfl, rfl, rfl, rfl, rfl⟩, .inl rfl, rfl, rfl⟩

theorem floatFstat_keepsHidden (rsv : BitVec 3) (s : State) : KeepsHidden s (floatFstat rsv s) :=
  ⟨rfl, rfl, rfl, rfl, rfl, rfl, rfl⟩

/-- The configuration, and whether FlashInit has run, stay as they are. -/
def KeepsConfig (s t : State) : Prop := t.cfg = s.cfg ∧ t.req.initDone = s.req.initDone

theorem Passive.keepsConfig {l : List Access} {s t : State} (h : Passive l s t) : KeepsConfig s t :=
  ⟨h.cfg, h.initDone⟩

/-- FCNFG stays as it is, or HOST has written it (log 52). -/
def FcnfgByHost (s t : State) : Prop :=
  t.win.fcnfg = s.win.fcnfg ∨
    ∃ v, t.history = .regWrite .host .fcnfg (regAddr s.cfg .fcnfg) v :: s.history ∨
      ∃ e, t.history = e :: .regWrite .host .fcnfg (regAddr s.cfg .fcnfg) v :: s.history

theorem Passive.fcnfg {l : List Access} {s t : State} (h : Passive l s t) : FcnfgByHost s t :=
  .inl (congrArg Window.fcnfg h.win)

/-- A step of SEQ changes nothing hidden. -/
theorem seqStep_keeps (s : State) :
    KeepsHidden s (seqStep s) ∧ FcnfgByHost s (seqStep s) ∧ KeepsConfig s (seqStep s) := by
  cases seqStep_effect s with
  | quiet h => exact ⟨h.keepsHidden, h.fcnfg, h.keepsConfig⟩
  | read h => exact ⟨h.keepsHidden, h.fcnfg, h.keepsConfig⟩
  | @fstat v _ h =>
    obtain ⟨hk, hf⟩ := writeFstat_keepsHidden .seq v s
    exact ⟨hk.trans h.keepsHidden, .inl ((congrArg Window.fcnfg h.win).trans hf),
      h.cfg.trans (by simp), h.initDone.trans (by simp)⟩
  | @load v _ h =>
    obtain ⟨hk, hf⟩ := writeFccob_keepsHidden .seq s.seq.k v s
    exact ⟨hk.trans h.keepsHidden, .inl ((congrArg Window.fcnfg h.win).trans hf),
      h.cfg.trans (by simp), h.initDone.trans (by simp)⟩

/-- FlashInit's store: where HOST's control state lets it, it changes the two sizes alone, and nothing once it has
(R282, R346; log 48). -/
structure StoresSizes (m : Move) (s t : State) : Prop where
  go       : m = .host .go
  place    : s.req.ctl.mayStoreSizes
  initDone : t.req.initDone = true
  sizes    : t.cfg = { s.cfg with dflashSize := t.cfg.dflashSize, eeeSize := t.cfg.eeeSize }
  fixed    : s.req.initDone = true → t.cfg = s.cfg

theorem hostStep_keeps {m : ReqMove} {s t : State} (h : hostStep m s = .next t) :
    KeepsHidden s t ∧ FcnfgByHost s t ∧ (KeepsConfig s t ∨ StoresSizes (.host m) s t) := by
  cases hostStep_effect h with
  | passive _ h => exact ⟨h.keepsHidden, h.fcnfg, .inl h.keepsConfig⟩
  | write hw h he =>
    obtain ⟨hk, hf, hcfg, hreq⟩ := hostWrite_keepsHidden hw
    refine ⟨hk.trans h.keepsHidden, ?_, .inl ⟨h.cfg.trans hcfg, h.initDone.trans (by rw [hreq])⟩⟩
    obtain hf | rfl := hf
    · exact .inl ((congrArg Window.fcnfg h.win).trans hf)
    · rw [hostWrite_history hw] at he
      exact .inr ⟨_, he⟩
  | sizes hm hc _ hp hs =>
    obtain ⟨rfl, hd, hfix⟩ := initStore_next hs
    exact ⟨hp.keepsHidden.trans ⟨rfl, rfl, rfl, rfl, rfl, rfl, rfl⟩, .inl (congrArg Window.fcnfg hp.win),
      .inr ⟨hm ▸ rfl, hc, hd, by rw [← hp.cfg]; rfl, fun hi => (hfix (hp.initDone.trans hi)).trans hp.cfg⟩⟩

/-- A completion changes neither the protection mode nor FOPT; where no command is in flight it changes nothing. -/
theorem nvmStep_keeps (o : NvmOutcome) (s : State) :
    (nvmStep o s).nvm.protMode = s.nvm.protMode ∧ (nvmStep o s).win.fopt = s.win.fopt ∧
      (s.nvm.busy = false → nvmStep o s = s) := by
  unfold nvmStep
  split
  · exact ⟨rfl, rfl, by simp_all⟩
  · exact ⟨rfl, rfl, fun _ => rfl⟩

/-- What every step but a completion and a reset keeps. -/
theorem stepInput_keeps {i : Input} {s t : State} (hr : ∀ l, i.move ≠ .reset l)
    (hn : ∀ o, i.move ≠ .nvm o) (h : stepInput i s = .next t) :
    KeepsHidden s t ∧ FcnfgByHost s t ∧ (KeepsConfig s t ∨ StoresSizes i.move s t) := by
  obtain ⟨rsv, m⟩ := i
  have passive {l : List Access} (h : Passive l (floatFstat rsv s) t) :
      KeepsHidden s t ∧ FcnfgByHost s t ∧ (KeepsConfig s t ∨ StoresSizes m s t) :=
    ⟨(floatFstat_keepsHidden rsv s).trans h.keepsHidden, h.fcnfg, .inl h.keepsConfig⟩
  cases m with
  | seq =>
    cases h
    obtain ⟨hk, hf, hc⟩ := seqStep_keeps (floatFstat rsv s)
    exact ⟨(floatFstat_keepsHidden rsv s).trans hk, hf, .inl hc⟩
  | swp => exact (swpStep_effect (s := floatFstat rsv s) h).elim passive passive
  | nvm o => exact absurd rfl (hn o)
  | cb q => exact passive (cbStep_effect h)
  | host q =>
    obtain ⟨hk, hf, hc⟩ := hostStep_keeps (s := floatFstat rsv s) h
    exact ⟨(floatFstat_keepsHidden rsv s).trans hk, hf,
      hc.imp id fun ⟨hg, hp, hd, hs, hx⟩ => ⟨hg, hp, hd, hs, hx⟩⟩
  | debugResume f => cases h; exact passive (resumeFsm_effect f _)
  | reset l => exact absurd rfl (hr l)
  | lowPower =>
    obtain rfl := lowPowerStep_next h
    exact passive (.refl _)

/-- Settles O31: only a completion changes the hidden state, and only FlashInit's store the configuration. -/
theorem onlyTheirWritersChangeHiddenState : Obligations.OnlyTheirWritersChangeHiddenState := by
  intro i s t hr h
  by_cases hn : ∃ o, i.move = .nvm o
  · obtain ⟨rsv, m⟩ := i
    obtain ⟨o, rfl : m = .nvm o⟩ := hn
    cases h
    obtain ⟨hp, ho, hidle⟩ := nvmStep_keeps o (floatFstat rsv s)
    refine ⟨hp, ho, fun hb => ?_, fun hd => ⟨by simpa using hd, by simp⟩, fun hc => absurd (by simp) hc⟩
    have hb : s.nvm.busy = false := hb.resolve_right fun hne => hne o rfl
    rw [hidle hb]
    exact ⟨rfl, rfl, rfl, rfl, rfl, .inl rfl⟩
  · obtain ⟨hk, hf, hc⟩ := stepInput_keeps hr (by simpa using hn) h
    refine ⟨hk.protMode, hk.fopt, fun _ => ⟨hk.fsec, hk.flash, hk.ifr, hk.eeram, hk.swapState, hf⟩, ?_⟩
    obtain ⟨hcfg, hdone⟩ | hs := hc
    · exact ⟨fun hd => ⟨hdone.trans hd, hcfg⟩, fun hne => absurd hcfg hne⟩
    · exact ⟨fun hd => ⟨hs.initDone, hs.fixed hd⟩, fun _ => ⟨hs.go, hs.initDone, hs.place, hs.sizes⟩⟩

end Sys2Proof.Machine
end

section
/-! PROOFS. Addresses of the arrays: reads by system address (00_scope.md R13, R106), the blocks a command in flight
is on (R9, R344), and the sector SWP erases (42_swap_fsm.md R232, R235). -/

namespace Sys2Proof.Machine

/-! ## Units -/

/-- Between two multiples of `p`, the unit of `p` bytes that holds a number lies between them too. -/
theorem unit_between {p y lo hi : Nat} (hlo : lo % p = 0) (hhi : hi % p = 0) (h1 : lo ≤ y) (h2 : y < hi) :
    lo ≤ y - y % p ∧ y - y % p + p ≤ hi := by
  obtain ⟨a, rfl⟩ := Nat.dvd_of_mod_eq_zero hlo
  obtain ⟨b, rfl⟩ := Nat.dvd_of_mod_eq_zero hhi
  have hp : 0 < p := Nat.pos_of_ne_zero (by rintro rfl; omega)
  have hy : y - y % p = p * (y / p) := by have := Nat.div_add_mod y p; omega
  have ha : a ≤ y / p := (Nat.le_div_iff_mul_le hp).mpr (Nat.mul_comm a p ▸ h1)
  have hb : y / p + 1 ≤ b := Nat.div_lt_of_lt_mul h2
  rw [hy, ← Nat.mul_succ]
  exact ⟨Nat.mul_le_mul_left p ha, Nat.mul_le_mul_left p hb⟩

/-- The unit of `p` bytes that holds `a` is the numbers with its quotient. -/
theorem div_eq_iff_unit {p : Nat} (hp : 0 < p) (a y : Nat) :
    a / p = y / p ↔ a - a % p ≤ y ∧ y < a - a % p + p := by
  have ha : a - a % p = p * (a / p) := by have := Nat.div_add_mod a p; omega
  rw [ha, eq_comm, Nat.div_eq_iff hp, Nat.mul_comm]
  omega

/-! ## The erased sector -/

/-- What `Config.wf` says of P-Flash and its sectors (R11). -/
theorem Config.wf_pflash {c : Config} (h : c.wf = true) :
    c.pflashSize.toNat ≤ 0x800000 ∧ 0 < c.psectorSize.toNat ∧ c.pflashSize.toNat % 2 = 0 ∧
      (c.pflashSize.toNat / 2) % c.psectorSize.toNat = 0 := by
  simp only [Config.wf, Bool.and_eq_true, decide_eq_true_eq, beq_iff_eq] at h
  omega

/-- Settles O49: half of P-Flash is a whole number of sectors, so the counterpart's sector is one of the upper
half. -/
theorem swapErasesTheOtherBank : Obligations.SwapErasesTheOtherBank := by
  intro cfg addr hwf hok
  obtain ⟨hmax, hsec, heven, hhalf⟩ := Config.wf_pflash hwf
  simp only [swapAddrOk, Bool.and_eq_true, decide_eq_true_eq] at hok
  obtain ⟨⟨hlo, hhi⟩, -⟩ := hok
  simp only [eraseTarget, eraseAddr, sectorBase, BitVec.toNat_ofNat]
  generalize cfg.pflashBase.toNat = base at *
  generalize cfg.pflashSize.toNat = size at *
  generalize cfg.psectorSize.toNat = sector at *
  generalize addr.toNat = x at *
  have hwhole : size % sector = 0 := by
    rw [show size = size / 2 * 2 by omega, Nat.mul_mod, hhalf]
    simp
  obtain ⟨h1, h2⟩ := unit_between (y := x + size / 2 - base) hhalf hwhole (by omega) (by omega)
  have hlt : (x + size / 2 - base) % sector < sector := Nat.mod_lt _ hsec
  have hmul : (x + size / 2 - base - (x + size / 2 - base) % sector) % sector = 0 :=
    Nat.sub_mod_eq_zero_of_mod_eq (Nat.mod_mod _ _).symm
  generalize (x + size / 2 - base) % sector = r at *
  have he : x + size / 2 - r - base = x + size / 2 - base - r := by omega
  refine ⟨by omega, by omega, by omega, by omega, he ▸ hmul, Nat.mod_eq_of_lt (by omega)⟩

/-! ## The blocks a command is on -/

/-- Two internal addresses in one unit of their region: `psize` bytes in P-Flash, `dsize` in D-Flash (R9). -/
def SameUnit (psize dsize y z : Nat) : Prop :=
  (y < dflashInternal ∧ z < dflashInternal ∧ y / psize = z / psize) ∨
    (dflashInternal ≤ y ∧ dflashInternal ≤ z ∧
      (y - dflashInternal) / dsize = (z - dflashInternal) / dsize)

/-- Two internal addresses in one flash block. -/
def SameBlock (cfg : Config) : Nat → Nat → Prop := SameUnit cfg.pblockSize.toNat cfg.dblockSize.toNat

theorem SameUnit.refl (p d y : Nat) : SameUnit p d y y := by
  unfold SameUnit; omega

theorem SameUnit.trans {p d x y z : Nat} (h : SameUnit p d x y) (h' : SameUnit p d y z) :
    SameUnit p d x z := by
  unfold SameUnit at *; omega

/-- Where D-Flash begins at a whole number of P-Flash units, the bytes of the unit that holds `a` are those in one
unit with it. -/
theorem mem_unit_iff {p d : Nat} (hp : 0 < p) (hd : 0 < d) (hw : dflashInternal % p = 0) (a y : Nat) :
    (unitStart p d a ≤ y ∧ y < unitStart p d a + max (unitSize p d a) 1) ↔ SameUnit p d a y := by
  have h1 := div_eq_iff_unit hp a y
  have h2 := div_eq_iff_unit hd (a - dflashInternal) (y - dflashInternal)
  have h3 := Nat.mod_le (a - dflashInternal) d
  unfold unitStart unitSize SameUnit
  by_cases ha : a < dflashInternal
  · have h4 := unit_between (Nat.zero_mod p) hw (Nat.zero_le a) ha
    rw [h1, if_pos ha, if_pos ha]
    omega
  · rw [h2, if_neg ha, if_neg ha]
    omega

/-- A command with a footprint is on the blocks of its bytes (R106; log 34). -/
theorem commandOnBlock_footprint {cfg : Config} {cmd : Slots} {o : Opcode} {a n : Nat}
    (ho : opcodeOf cmd[0] = some o) (hf : footprint cfg o cmd = some (a, n)) (x : Nat) :
    commandOnBlock cfg cmd x = true ↔ ∃ y, a ≤ y ∧ y < a + max n 1 ∧ SameBlock cfg y x := by
  simp only [commandOnBlock, ho, hf]
  exact onBlocks_iff cfg a n x

/-- A command without an address is on the blocks its rule names. -/
theorem commandOnBlock_unaddressed {cfg : Config} {cmd : Slots} {o : Opcode}
    (ho : opcodeOf cmd[0] = some o) (hf : footprint cfg o cmd = none) (x : Nat) :
    commandOnBlock cfg cmd x = onUnaddressed o x := by
  simp only [commandOnBlock, ho, hf]

theorem commandOnBlock_unlisted {cfg : Config} {cmd : Slots} (ho : opcodeOf cmd[0] = none) (x : Nat) :
    commandOnBlock cfg cmd x = true := by
  simp only [commandOnBlock, ho]

/-- A command whose footprint is a unit is on the blocks that hold a byte of it. -/
theorem commandOnBlock_unit {cfg : Config} {cmd : Slots} {o : Opcode} {a p d : Nat}
    (ho : opcodeOf cmd[0] = some o)
    (hf : footprint cfg o cmd = some (unitStart p d a, unitSize p d a))
    (hp : 0 < p) (hd : 0 < d) (hw : dflashInternal % p = 0) (x : Nat) :
    commandOnBlock cfg cmd x = true ↔ ∃ y, SameUnit p d a y ∧ SameBlock cfg y x := by
  simp only [commandOnBlock_footprint ho hf, ← and_assoc, mem_unit_iff hp hd hw]

/-- A command whose footprint is a block is on that block. -/
theorem commandOnBlock_block {cfg : Config} {cmd : Slots} {o : Opcode} {a : Nat}
    (ho : opcodeOf cmd[0] = some o)
    (hf : footprint cfg o cmd = some (unitStart cfg.pblockSize.toNat cfg.dblockSize.toNat a,
      unitSize cfg.pblockSize.toNat cfg.dblockSize.toNat a))
    (hp : 0 < cfg.pblockSize.toNat) (hd : 0 < cfg.dblockSize.toNat)
    (hw : dflashInternal % cfg.pblockSize.toNat = 0) (x : Nat) :
    commandOnBlock cfg cmd x = true ↔ SameBlock cfg a x :=
  (commandOnBlock_unit ho hf hp hd hw x).trans
    ⟨fun ⟨_, h, h'⟩ => h.trans h', fun h => ⟨a, .refl _ _ a, h⟩⟩

theorem commandOnBlock_of_inFootprint {cfg : Config} {cmd : Slots} {o : Opcode} {x : Nat}
    (ho : opcodeOf cmd[0] = some o) (h : inFootprint cfg o cmd x = true) :
    commandOnBlock cfg cmd x = true := by
  unfold inFootprint at h
  split at h
  · rename_i a n hf
    simp only [inRange, Bool.and_eq_true, decide_eq_true_eq] at h
    exact (commandOnBlock_footprint ho hf x).mpr ⟨x, h.1, by omega, .refl _ _ x⟩
  · cases h

/-- Every byte a completion may change is on a block the command is on. -/
theorem commandOnBlock_of_mayChange {cfg : Config} {cmd : Slots} {x : Nat}
    (h : mayChange cfg cmd x = true) : commandOnBlock cfg cmd x = true := by
  unfold mayChange at h
  cases ho : opcodeOf cmd[0] with
  | none => exact commandOnBlock_unlisted ho x
  | some o =>
    rw [ho] at h
    simp only [Bool.and_eq_true] at h
    obtain ⟨-, h⟩ := h
    cases o <;> simp only [Bool.false_eq_true] at h
    case eraseAllBlock => exact commandOnBlock_unaddressed ho rfl x
    case pFlashSwap => exact commandOnBlock_unaddressed ho rfl x
    case eraseAllBlockUnsecure => exact commandOnBlock_unaddressed ho rfl x
    all_goals exact commandOnBlock_of_inFootprint ho h

/-- An opcode byte outside the list of the commands on a part of the arrays is on every block. -/
theorem commandOnBlock_other {cfg : Config} {cmd : Slots} {x : Nat}
    (h : cmd[0] ∉ ([0x00, 0x01, 0x02, 0x06, 0x07, 0x08, 0x09, 0x0B, 0x45, 0x80, 0x81] : List Byte)) :
    commandOnBlock cfg cmd x = true := by
  cases ho : opcodeOf cmd[0] with
  | none => exact commandOnBlock_unlisted ho x
  | some o =>
    rw [← opcodeByte_of_opcodeOf ho] at h
    cases o
    case readResource => exact commandOnBlock_unaddressed ho rfl x
    case verifyAllBlock => exact commandOnBlock_unaddressed ho rfl x
    case readOnce => exact commandOnBlock_unaddressed ho rfl x
    case programOnce => exact commandOnBlock_unaddressed ho rfl x
    case eraseAllBlock => exact commandOnBlock_unaddressed ho rfl x
    case pFlashSwap => exact commandOnBlock_unaddressed ho rfl x
    case eraseAllBlockUnsecure => exact commandOnBlock_unaddressed ho rfl x
    all_goals exact absurd h (by decide)

/-! ## Reads by address -/

/-- The number of a register is its place among them. -/
theorem allRegs_index (r : Reg) : allRegs[r.index.val]? = some r := by
  cases r with
  | fccob i => revert i; decide
  | fprot i => revert i; decide
  | _ => rfl

theorem Reg.index_injective : Function.Injective Reg.index := fun r q h =>
  Option.some.inj ((allRegs_index r).symm.trans (h ▸ allRegs_index q))

/-- No two registers have one address (R100). -/
theorem regAddr_injective {cfg : Config} (h : cfg.wf = true) : Function.Injective (regAddr cfg) := by
  have hnd : cfg.offset.toList.Nodup := by
    simp only [Config.wf, Bool.and_eq_true, decide_eq_true_eq] at h
    obtain ⟨⟨⟨⟨⟨-, hoff⟩, -⟩, -⟩, -⟩, -⟩ := h
    exact hoff
  intro r q he
  have hw : (cfg.offset.get r.index).setWidth 32 = (cfg.offset.get q.index).setWidth 32 :=
    (BitVec.add_right_inj cfg.regBase).mp he
  have ho : cfg.offset.get r.index = cfg.offset.get q.index := by
    simpa [BitVec.setWidth_setWidth_of_le] using congrArg (BitVec.setWidth 8) hw
  refine Reg.index_injective (Fin.ext ?_)
  refine (hnd.getElem_inj_iff (hi := by simp) (hj := by simp)).mp ?_
  simpa [Vector.get_eq_getElem] using ho

theorem regAt_eq_none {cfg : Config} {addr : Addr} (h : ∀ r, regAddr cfg r ≠ addr) :
    regAt cfg addr = none := by
  simpa [regAt] using fun r _ => h r

theorem regAt_regAddr {cfg : Config} (h : cfg.wf = true) (r : Reg) : regAt cfg (regAddr cfg r) = some r := by
  cases hf : regAt cfg (regAddr cfg r) with
  | none =>
    have := List.find?_eq_none.mp hf r (List.mem_of_getElem? (allRegs_index r))
    simp at this
  | some q =>
    have hq : regAddr cfg q = regAddr cfg r := by simpa using List.find?_some hf
    rw [regAddr_injective h hq]

/-- Settles O33: a read is a fault on the blocks of the command in flight, which are those of its bytes or those its
rule names. -/
theorem arrayReadsFaultInFlight : Obligations.ArrayReadsFaultInFlight := by
  refine ⟨fun s addr x hreg htr => ?_, fun s r hwf hs => ?_, fun cfg cmd x => commandOnBlock_of_mayChange,
    fun cfg cmd x => ?_⟩
  · have hbyte : arrayRead addr s = arrayByte addr x s := by simp only [arrayRead, htr]
    have hhost : hostMemRead addr s = arrayByte addr x s := by
      simp only [hostMemRead, regAt_eq_none hreg, hbyte]
    have hcb (h : s.seq.state = .cbWait) : cbStep (.arrayRead addr) s = arrayByte addr x s := by
      simp only [cbStep, h, callbackMemRead, regAt_eq_none hreg, hbyte, beq_self_eq_true, if_true]
    refine ⟨fun hb ho => ?_, fun hfree => ?_⟩
    · have hf : arrayByte addr x s = .fault .arrayBusy := by simp [arrayByte, hb, ho]
      exact ⟨hhost.trans hf, fun h => (hcb h).trans hf⟩
    · have hn : arrayByte addr x s = .next (s.emit (.arrayRead addr (Memory.read s.nvm.flash x))) :=
        if_neg (by rcases hfree with h | h <;> simp [h])
      exact ⟨hhost.trans hn, fun h => (hcb h).trans hn⟩
  · simp [hostMemRead, regAt_regAddr hwf, hostRead, hs, logRead, State.emit]
  · intro a bytes sameUnit sameBlock whole on onBytes
    have listed {o : Opcode} (h : cmd[0] = opcodeByte o) : opcodeOf cmd[0] = some o :=
      h ▸ opcodeOf_opcodeByte o
    refine ⟨fun h => commandOnBlock_footprint (listed (o := .programCheck) h) rfl x,
      fun h => commandOnBlock_footprint (listed (o := .programLongword) h) rfl x,
      fun h => commandOnBlock_footprint (listed (o := .programPhrase) h) rfl x,
      fun h => commandOnBlock_footprint (listed (o := .verifySection) h) rfl x,
      fun h => commandOnBlock_footprint (listed (o := .programSection) h) rfl x,
      fun h hw => ?_, fun hw => ⟨fun h => ?_, fun h => ?_⟩, fun h => ?_, fun h => ?_, commandOnBlock_other⟩
    · obtain ⟨hp, hd, hw⟩ := hw
      exact commandOnBlock_unit (listed (o := .eraseSector) h) rfl hp hd hw x
    · obtain ⟨hp, hd, hw⟩ := hw
      exact commandOnBlock_block (listed (o := .verifyBlock) h) rfl hp hd hw x
    · obtain ⟨hp, hd, hw⟩ := hw
      exact commandOnBlock_block (listed (o := .eraseBlock) h) rfl hp hd hw x
    · exact (Bool.eq_iff_iff.mp (commandOnBlock_unaddressed (listed (o := .programPartition) h) rfl x)).trans
        decide_eq_true_iff
    · have hc : commandOnBlock cfg cmd x = false := by
        simp only [List.mem_cons, List.not_mem_nil, or_false] at h
        obtain h | h := h
        · exact commandOnBlock_unaddressed (listed (o := .securityBypass) h) rfl x
        · exact commandOnBlock_unaddressed (listed (o := .setEERAM) h) rfl x
      exact Bool.eq_false_iff.mp hc

end Sys2Proof.Machine
end

section
/-! PROOFS. FlashInit (43_requester_interface.md R282, R283), and the service of an accepted command without waiting
(40_sequencer.md R150, R167), which it runs through. -/

namespace Sys2Proof.Machine

/-! ## Runs by their moves -/

/-- The first move of a run, with the draw of FSTAT's reserved bits in its step. -/
theorem runInputs_of_makes_cons {ins : List Input} {m : Move} {ms : List Move} (h : makes ins (m :: ms)) :
    ∃ rsv rest, makes rest ms ∧ ∀ s t, stepInput { rsv := rsv, move := m } s = .next t →
      runInputs ins s = runInputs rest t := by
  obtain ⟨rsv, rest, rfl, hrest⟩ := makes_cons.mp h
  exact ⟨rsv, rest, hrest, fun s t => runInputs_cons_next⟩

/-- A run of one move is its step. -/
theorem runInputs_of_makes_singleton {ins : List Input} {m : Move} (h : makes ins [m]) :
    ∃ rsv, ∀ s, runInputs ins s = stepInput { rsv := rsv, move := m } s := by
  obtain ⟨rsv, rest, rfl, hrest⟩ := makes_cons.mp h
  obtain rfl := makes_nil.mp hrest
  refine ⟨rsv, fun s => ?_⟩
  cases hi : stepInput { rsv := rsv, move := m } s <;> simp [runInputs, hi]

/-! ## The flags of a served command -/

/-- On clean error flags a completion leaves the flags of its outcome alone (R170, R176). -/
theorem namedFlags_completedStatus {f : Byte} (hf : f &&& 0x70 = 0) (o : NvmOutcome) :
    namedFlags (completedStatus f o) = outcomeStatus o := by
  unfold completedStatus outcomeStatus flagIf
  cases o.rdcolerr <;> cases o.accerr <;> cases o.fpviol <;> cases o.mgstat0 <;> revert f <;> decide

/-- The decoder reads the named flags alone. -/
theorem decodeStatus_namedFlags (f : Byte) : decodeStatus (namedFlags f) = decodeStatus f := by
  revert f; decide

theorem decodeStatus_outcomeStatus (o : NvmOutcome) : decodeStatus (outcomeStatus o) = outcomeCode o := by
  unfold outcomeStatus outcomeCode
  cases o.rdcolerr <;> cases o.accerr <;> cases o.fpviol <;> cases o.mgstat0 <;> rfl

theorem decodeStatus_of_outcome {f : Byte} {o : NvmOutcome} (h : namedFlags f = outcomeStatus o) :
    decodeStatus f = outcomeCode o := by
  rw [← decodeStatus_namedFlags, h, decodeStatus_outcomeStatus]

theorem ccif_outcomeStatus (o : NvmOutcome) : ccif (outcomeStatus o) = true := by
  simp [ccif, outcomeStatus]

/-- The named flags hold CCIF. -/
theorem ccif_namedFlags (f : Byte) : ccif (namedFlags f) = ccif f := by
  simp [ccif, namedFlags]

/-- FSTAT with CCIF set and the error flags clear. -/
def Clean (f : Byte) : Prop := namedFlags f &&& 0xF0 = 0x80

theorem clean_clearErrors {f : Byte} (h : ccif f = true) : Clean (clearErrors f 0x70) := by
  revert f; unfold Clean; decide

theorem Clean.of_namedFlags {f g : Byte} (h : Clean f) (e : namedFlags g = namedFlags f) : Clean g :=
  (congrArg (· &&& 0xF0) e).trans h

theorem Clean.ccif {f : Byte} (h : Clean f) : Machine.ccif f = true := by
  revert f; unfold Clean; decide

theorem Clean.launches {f : Byte} (h : Clean f) : launches f 0x80 = true := by
  revert f; unfold Clean; decide

theorem Clean.launchedStatus {f : Byte} (h : Clean f) : launchedStatus f &&& 0x70 = 0 := by
  revert f; unfold Clean; decide

theorem floatReserved_errors (rsv : BitVec 3) (f : Byte) : floatReserved rsv f &&& 0x70 = f &&& 0x70 := by
  revert rsv f; decide

/-! ## The service of an accepted command -/

/-- WAIT_READY with CCIF = 1: one read of FSTAT. -/
theorem stepInput_waitReady (rsv : BitVec 3) {s : State} (hs : s.seq.state = .waitReady)
    (hh : s.seq.halted = false) (hc : s.ccif = true) :
    stepInput { rsv := rsv, move := .seq } s = .next { s with
      seq := { s.seq with state := .clearErr }
      win := { s.win with fstat := floatReserved rsv s.win.fstat }
      history := .regRead .seq .fstat (regAddr s.cfg .fstat) (floatReserved rsv s.win.fstat)
        :: s.history } := by
  have hc' : (floatFstat rsv s).ccif = true := by simpa using hc
  rw [stepInput_seq, seqStep_waitReady (by simpa using hs) (by simpa using hh), seqWaitReady]
  simp only [hc', if_true]
  rfl

/-- CLEAR_ERR leaves the error flags clear. -/
theorem stepInput_clearErr (rsv : BitVec 3) {s : State} (hs : s.seq.state = .clearErr)
    (hh : s.seq.halted = false) :
    stepInput { rsv := rsv, move := .seq } s = .next { s with
      seq := { s.seq with k := 0, state := .load }
      win := { s.win with fstat := clearErrors (floatReserved rsv s.win.fstat) 0x70 }
      history := .regWrite .seq .fstat (regAddr s.cfg .fstat) 0x70 :: s.history } := by
  rw [stepInput_seq, seqStep_clearErr (by simpa using hs) (by simpa using hh), seqClearErr]
  simp only [writeFstat, storeFstat, launches_clear, Bool.false_eq_true, if_false]
  rfl

/-- LAUNCH on clean flags hands the slots to the controller. -/
theorem stepInput_launch (rsv : BitVec 3) {s : State} (hs : s.seq.state = .launch)
    (hh : s.seq.halted = false) (hf : Clean s.win.fstat) :
    stepInput { rsv := rsv, move := .seq } s = .next { s with
      seq := { s.seq with state := .poll }
      win := { s.win with fstat := launchedStatus (floatReserved rsv s.win.fstat) }
      nvm := { s.nvm with busy := true, cmd := s.win.fccob }
      history := .regWrite .seq .fstat (regAddr s.cfg .fstat) 0x80 :: s.history } := by
  have hl : launches (floatReserved rsv s.win.fstat) 0x80 = true :=
    (hf.of_namedFlags (namedFlags_floatReserved rsv _)).launches
  rw [stepInput_seq, seqStep_launch (by simpa using hs) (by simpa using hh), seqLaunch]
  simp only [writeFstat, storeFstat, logWrite_win, floatFstat_win, clearErrors_launch, hl, if_true]
  rfl

/-- A completion of the command in flight. -/
theorem stepInput_nvm (rsv : BitVec 3) (o : NvmOutcome) {s : State} (hb : s.nvm.busy = true) :
    stepInput { rsv := rsv, move := .nvm o } s = .next { s with
      win := completedWindow s.cfg o s.nvm.cmd
        { s.win with fstat := floatReserved rsv s.win.fstat }
      nvm := completedNvm s.cfg o s.nvm } := by
  simp only [stepInput, moveStep, nvmStep, floatFstat_nvm, hb, if_true]
  rfl

/-- POLL with CCIF = 1: the last read of the wait. -/
theorem stepInput_poll (rsv : BitVec 3) {s : State} (hs : s.seq.state = .poll)
    (hh : s.seq.halted = false) (hc : s.ccif = true) :
    stepInput { rsv := rsv, move := .seq } s = .next { s with
      seq := { s.seq with state := .decode }
      win := { s.win with fstat := floatReserved rsv s.win.fstat }
      history := .regRead .seq .fstat (regAddr s.cfg .fstat) (floatReserved rsv s.win.fstat)
        :: s.history } := by
  have hc' : (floatFstat rsv s).ccif = true := by simpa using hc
  rw [stepInput_seq, seqStep_poll (by simpa using hs) (by simpa using hh), seqPoll]
  simp only [hc', if_true]
  rfl

/-- DECODE: one more read of FSTAT, its decoding, and `Done`. -/
theorem stepInput_decode (rsv : BitVec 3) {s : State} (hs : s.seq.state = .decode)
    (hh : s.seq.halted = false) :
    stepInput { rsv := rsv, move := .seq } s
      = .next (endOperation .seq s.seq.owner (decodeStatus s.win.fstat) { s with
          seq := { s.seq with
            fstat := floatReserved rsv s.win.fstat, result := decodeStatus s.win.fstat, state := .idle }
          win := { s.win with fstat := floatReserved rsv s.win.fstat }
          history := .regRead .seq .fstat (regAddr s.cfg .fstat) (floatReserved rsv s.win.fstat)
            :: s.history }) := by
  rw [stepInput_seq, seqStep_decode (by simpa using hs) (by simpa using hh), seqDecode]
  simp only [floatFstat_win, decodeStatus_floatReserved]
  rfl

/-- An accepted command is served without waiting: SEQ loads it and launches it, the controller completes it with
outcome `o`, and SEQ answers the outcome's code (R150, R167). -/
theorem runInputs_service {s : State} {o : NvmOutcome} {ins : List Input} (hs : s.seq.state = .waitReady)
    (hh : s.seq.halted = false) (hc : s.ccif = true) (hm : makes ins (commandMoves s.seq.n o)) :
    ∃ f v h, runInputs ins s = .next (endOperation .seq s.seq.owner (outcomeCode o) { s with
        seq := { s.seq with k := s.seq.n, fstat := f, result := outcomeCode o, state := .idle }
        win := { completedWindow s.cfg o v { s.win with fccob := v } with fstat := f }
        nvm := completedNvm s.cfg o { s.nvm with busy := true, cmd := v }
        history := h ++ s.history }) ∧
      namedFlags f = outcomeStatus o ∧ (∀ i, v.get i = loadedSlot s.seq.n s.seq.buf s.win.fccob i) ∧
      accesses h = executeTrace s.seq.n s.seq.buf 1 1 := by
  have hsplit : commandMoves s.seq.n o = .seq :: .seq ::
      (List.replicate (s.seq.n.val + 1) Move.seq ++ [.seq, .nvm o, .seq, .seq]) := by
    rw [commandMoves, show s.seq.n.val + 4 = 2 + ((s.seq.n.val + 1) + 1) by omega, List.replicate_add,
      List.replicate_add, List.append_assoc, List.append_assoc]
    rfl
  rw [hsplit] at hm
  obtain ⟨r1, i1, hm1, run1⟩ := runInputs_of_makes_cons hm
  obtain ⟨r2, i2, hm2, run2⟩ := runInputs_of_makes_cons hm1
  obtain ⟨i3, i4, rfl, hload, hm4⟩ := makes_append.mp hm2
  obtain ⟨r5, i5, hm5, run5⟩ := runInputs_of_makes_cons hm4
  obtain ⟨r6, i6, hm6, run6⟩ := runInputs_of_makes_cons hm5
  obtain ⟨r7, i7, hm7, run7⟩ := runInputs_of_makes_cons hm6
  obtain ⟨r8, i8, hm8, run8⟩ := runInputs_of_makes_cons hm7
  obtain rfl := makes_nil.mp hm8
  have hc2 : Machine.ccif (floatReserved r2 (floatReserved r1 s.win.fstat)) = true := by
    simpa [State.ccif] using hc
  have hclean := clean_clearErrors hc2
  obtain ⟨f, v, h, hrun, hf, hcf, hv, hacc, -⟩ := runInputs_load s.seq.n.val { s with
    seq := { s.seq with k := 0, state := .load }
    win := { s.win with fstat := clearErrors (floatReserved r2 (floatReserved r1 s.win.fstat)) 0x70 }
    history := .regWrite .seq .fstat (regAddr s.cfg .fstat) 0x70 ::
      .regRead .seq .fstat (regAddr s.cfg .fstat) (floatReserved r1 s.win.fstat) :: s.history }
    i3 rfl hh (by simpa [State.ccif] using hclean.ccif) (by simp) hload
  have hf : Clean f := hclean.of_namedFlags hf
  have hlaunched : floatReserved r6 (launchedStatus (floatReserved r5 f)) &&& 0x70 = 0 := by
    rw [floatReserved_errors]
    exact (hf.of_namedFlags (namedFlags_floatReserved r5 f)).launchedStatus
  have hend := namedFlags_completedStatus hlaunched o
  generalize hg : completedStatus (floatReserved r6 (launchedStatus (floatReserved r5 f))) o = g at hend
  have hcg : Machine.ccif g = true := by rw [← ccif_namedFlags, hend, ccif_outcomeStatus]
  have hcode : decodeStatus (floatReserved r7 g) = outcomeCode o :=
    decodeStatus_of_outcome (by simpa using hend)
  let a := regAddr s.cfg .fstat
  refine ⟨floatReserved r8 (floatReserved r7 g), v,
    [.regRead .seq .fstat a (floatReserved r8 (floatReserved r7 g)),
      .regRead .seq .fstat a (floatReserved r7 g), .regWrite .seq .fstat a 0x80] ++ (h ++
        [.regWrite .seq .fstat a 0x70, .regRead .seq .fstat a (floatReserved r1 s.win.fstat)]), ?_,
    by simpa using hend, by simpa [loadedSlot] using hv, ?_⟩
  · refine Eq.trans (run1 _ _ (stepInput_waitReady r1 hs hh hc)) ?_
    refine Eq.trans (run2 _ _ (stepInput_clearErr r2 rfl hh)) ?_
    refine Eq.trans (runInputs_append_next hrun) ?_
    refine Eq.trans (run5 _ _ (stepInput_launch r5 rfl hh hf)) ?_
    refine Eq.trans (run6 _ _ (stepInput_nvm r6 o rfl)) ?_
    refine Eq.trans (run7 _ _ (stepInput_poll r7 rfl hh ?_)) ?_
    · simp only [State.ccif, completedWindow, hg, hcg]
    refine Eq.trans (run8 _ _ (stepInput_decode r8 rfl hh)) ?_
    simp only [completedWindow, hg, hcode, runInputs_nil, a, List.cons_append, List.append_assoc, List.nil_append]
  · rw [accesses_append, accesses_append, hacc, slotsFrom_zero]
    simp [accesses, executeTrace, List.replicate_succ]

/-! ## HOST's steps in FlashInit -/

theorem stepInput_call (rsv : BitVec 3) {p : Proc} {cap : CapDraw} {s : State} (h : s.req.ctl = .idle) :
    stepInput { rsv := rsv, move := .host (.call p cap) } s = hostStart p cap (floatFstat rsv s) :=
  if_pos h

/-- A run that begins with HOST going on. -/
theorem runInputs_of_makes_go {ins : List Input} {ms : List Move} (h : makes ins (.host .go :: ms)) :
    ∃ rsv rest, makes rest ms ∧ ∀ s t, hostGo (floatFstat rsv s) = .next t →
      runInputs ins s = runInputs rest t :=
  runInputs_of_makes_cons h

theorem runInputs_of_makes_last_go {ins : List Input} (h : makes ins [.host .go]) :
    ∃ rsv, ∀ s, runInputs ins s = hostGo (floatFstat rsv s) :=
  runInputs_of_makes_singleton h

theorem hostGo_idle {s : State} (h : s.req.ctl = .idle) : hostGo s = .next s := by
  simp only [hostGo, h]

/-- FlashInit waits: one read of FSTAT (R282). -/
theorem hostGo_initPoll_wait {s : State} (h : s.req.ctl = .initPoll) (hc : s.ccif = false) :
    hostGo s = .next (logRead .host .fstat s) := by
  simp [hostGo, h, hc]

/-- Without D-Flash it stores both sizes as 0. -/
theorem hostGo_initPoll_noDFlash {s : State} (h : s.req.ctl = .initPoll) (hc : s.ccif = true)
    (hd : s.cfg.dflashPhysSize = 0) :
    hostGo s = initStore codeSuccess 0 0 (logRead .host .fstat s) := by
  simp [hostGo, h, hc, hd]

/-- With D-Flash its command is the next. -/
theorem hostGo_initPoll_command {s : State} (h : s.req.ctl = .initPoll) (hc : s.ccif = true)
    (hd : s.cfg.dflashPhysSize ≠ 0) :
    hostGo s = .next (hostGoto (.commands .init 0 [.readResource s.cfg.ifrAddr s.cfg.ifrSel])
      (logRead .host .fstat s)) := by
  simp only [hostGo, h, hc, Bool.not_true, Bool.false_eq_true, if_false, if_neg hd, hostCommands]

theorem hostGo_offer {s : State} {goal : Goal} {k : Nat} {i : Instr} {t : List Instr}
    (h : s.req.ctl = .commands goal k (i :: t)) (hcall : s.req.call = .none) :
    hostGo s = hostOffer i s := by
  simp [hostGo, h, hostCommandStep, hcall]

/-- FlashInit's command has failed: it returns the result (R271). -/
theorem hostGo_init_failed {s : State} {k : Nat} {i : Instr} {r : Code}
    (h : s.req.ctl = .commands .init k [i]) (hcall : s.req.call = .done r) (hr : r ≠ 0) :
    hostGo s = .next (hostReturnCode r s) := by
  simp only [hostGo, h, hostCommandStep, hcall]
  exact if_neg hr

/-- FlashInit's command has succeeded: it reads the two bytes back. -/
theorem hostGo_init_done {s : State} {k : Nat} {i : Instr}
    (h : s.req.ctl = .commands .init k [i]) (hcall : s.req.call = .done 0) :
    hostGo s = .next (hostGoto
      (.readBack .init 0 none [s.cfg.departSlot, s.cfg.eeeSizeSlot] []) s) := by
  simp [hostGo, h, hostCommandStep, hcall, codeSuccess, hostCommandsEnd]

theorem hostGo_readBack {s : State} {goal : Goal} {c : Code} {a : Option Addr} {i : Slot}
    {t : List Slot} {got : List Byte} (h : s.req.ctl = .readBack goal c a (i :: t) got) :
    hostGo s = .next (hostGoto (.readBack goal c a t (got ++ [s.win.fccob.get i]))
      (logRead .host (.fccob i) s)) := by
  simp [hostGo, h, readReg]

/-- FlashInit looks the two sizes up by the low nibbles (R282, R283). -/
theorem hostGo_readBack_init {s : State} {c : Code} {a : Option Addr} {depart eee : Byte}
    (h : s.req.ctl = .readBack .init c a [] [depart, eee]) :
    hostGo s = initStore c
      (s.cfg.departTable.get ⟨depart.toNat % 16, Nat.mod_lt _ (by decide)⟩)
      (s.cfg.eeeSizeTable.get ⟨eee.toNat % 16, Nat.mod_lt _ (by decide)⟩) s := by
  simp [hostGo, h, hostReadBackEnd]

/-- The sizes are stored while no FlashInit has run, and where they are those it has fixed. -/
theorem initStore_stores {code : Code} {dflash eee : Addr} {s : State}
    (h : s.req.initDone = false ∨ (s.cfg.dflashSize = dflash ∧ s.cfg.eeeSize = eee)) :
    initStore code dflash eee s = .next (hostReturnCode code
      { s with
        cfg := { s.cfg with dflashSize := dflash, eeeSize := eee }
        req := { s.req with initDone := true } }) := by
  refine if_neg ?_
  rcases h with h | ⟨hd, he⟩ <;> simp [*]

/-- Once a FlashInit has run, other sizes are refused (R346; log 48). -/
theorem initStore_refuses {code : Code} {dflash eee : Addr} {s : State} (h : s.req.initDone = true)
    (hne : dflash ≠ s.cfg.dflashSize ∨ eee ≠ s.cfg.eeeSize) :
    initStore code dflash eee s = .refused .refuseConfigChange :=
  if_pos (by rcases hne with hne | hne <;> simp [h, hne])

/-! ## FlashInit without a command -/

/-- While CCIF = 0 FlashInit reads FSTAT and does nothing else. -/
theorem runInputs_initPoll : ∀ (k : Nat) {s : State} {ins : List Input}, s.req.ctl = .initPoll →
    s.ccif = false → makes ins (List.replicate k (.host .go)) →
    ∃ f h, runInputs ins s
        = .next { s with win := { s.win with fstat := f }, history := h ++ s.history } ∧
      namedFlags f = namedFlags s.win.fstat ∧ accesses h = List.replicate k (.read .fstat) ∧
      h.length = k
  | 0, s, ins, _, _, hm => by
    obtain rfl := makes_nil.mp hm
    exact ⟨s.win.fstat, [], rfl, rfl, rfl, rfl⟩
  | k + 1, s, ins, hctl, hc, hm => by
    obtain ⟨r, rest, hrest, run⟩ := runInputs_of_makes_go hm
    have hstep := hostGo_initPoll_wait (s := floatFstat r s) hctl (by simpa using hc)
    obtain ⟨f, h, hrun, hf, hacc, hlen⟩ := runInputs_initPoll k
      (s := logRead .host .fstat (floatFstat r s)) hctl (by simpa [State.ccif] using hc) hrest
    refine ⟨f, h ++ [.regRead .host .fstat (regAddr s.cfg .fstat) (floatReserved r s.win.fstat)],
      (run _ _ hstep).trans (hrun.trans (by rw [List.append_assoc]; rfl)), by simpa using hf, ?_,
      by simp [hlen]⟩
    rw [accesses_append, hacc]
    rfl

/-- Settles O57: the wait is an induction on its reads; without D-Flash the store follows the read of CCIF = 1. -/
theorem flashInitWaitsAndSkipsWithoutDFlash : Obligations.FlashInitWaitsAndSkipsWithoutDFlash := by
  refine ⟨fun s cap k ins hidle hc hm => ?_, fun s cap ins hidle hc hd hm => ?_⟩
  · obtain ⟨r, rest, hrest, run⟩ := runInputs_of_makes_cons hm
    obtain ⟨f, h, hrun, hf, hacc, hlen⟩ := runInputs_initPoll k
      (s := hostGoto .initPoll (floatFstat r s)) rfl (by simpa [State.ccif] using hc) hrest
    exact ⟨_, h, (run _ _ (stepInput_call r hidle)).trans hrun, rfl, rfl, rfl, rfl, rfl, rfl,
      by simpa using hf, rfl, hacc, hlen⟩
  · obtain ⟨r, rest, hrest, run⟩ := runInputs_of_makes_cons hm
    obtain ⟨r', last⟩ := runInputs_of_makes_last_go hrest
    have hgo := hostGo_initPoll_noDFlash (s := floatFstat r' (hostGoto .initPoll (floatFstat r s))) rfl
      (by simpa [State.ccif] using hc) hd
    have hrun := (run _ _ (stepInput_call r hidle)).trans ((last _).trans hgo)
    refine ⟨fun h => ?_, fun h hne => ?_⟩
    · exact ⟨_, [_, _], hrun.trans (initStore_stores h), rfl, rfl, rfl, rfl, rfl, rfl, rfl⟩
    · exact hrun.trans (initStore_refuses h (hne.imp Ne.symm Ne.symm))

/-! ## FlashInit with its command -/

/-- A HOST without a procedure goes on with nothing. -/
theorem runInputs_idle : ∀ (k : Nat) {s : State} {ins : List Input}, s.req.ctl = .idle →
    makes ins (List.replicate k (.host .go)) →
    ∃ f, runInputs ins s = .next { s with win := { s.win with fstat := f } }
  | 0, s, ins, _, hm => by
    obtain rfl := makes_nil.mp hm
    exact ⟨s.win.fstat, rfl⟩
  | k + 1, s, ins, hctl, hm => by
    obtain ⟨r, rest, hrest, run⟩ := runInputs_of_makes_go hm
    obtain ⟨f, hrun⟩ := runInputs_idle k (s := floatFstat r s) hctl hrest
    exact ⟨f, (run _ _ (hostGo_idle hctl)).trans hrun⟩

/-- The end of an operation answers HOST and leaves the rest of its state alone. -/
theorem endOperation_host_req (f : Fsm) (r : Code) (s : State) :
    (endOperation f .host r s).req = { s.req with call := .done r } := by
  simp [endOperation, deliver]

/-- What the service of HOST's command leaves HOST. -/
theorem runInputs_service_host {s : State} {o : NvmOutcome} {ins : List Input}
    (hs : s.seq.state = .waitReady) (hh : s.seq.halted = false) (hc : s.ccif = true)
    (howner : s.seq.owner = .host) (hm : makes ins (commandMoves s.seq.n o)) :
    ∃ u, runInputs ins s = .next u ∧ Made (executeTrace s.seq.n s.seq.buf 1 1) s u ∧ u.cfg = s.cfg ∧
      u.req = { s.req with call := .done (outcomeCode o) } := by
  obtain ⟨f, v, h, hrun, -, -, hacc⟩ := runInputs_service hs hh hc hm
  rw [howner] at hrun
  obtain ⟨e, he, hnone⟩ := (passive_endOperation .seq .host (outcomeCode o) _).history
  refine ⟨_, hrun, ⟨e ++ h, ?_, ?_⟩, endOperation_cfg _ _ _ _, endOperation_host_req _ _ _⟩
  · rw [he, List.append_assoc]
  · rw [accesses_append, hacc, hnone, List.append_nil]

/-- HOST waits for the answer to an accepted request. -/
theorem acceptExecute_host_req {n : Slot} {p : Slots} {s : State} (h : s.port = .host) :
    (acceptExecute n p s).req = { s.req with call := .inFlight } := by
  simp only [acceptExecute, awaitDone, h]

theorem hostOffer_readResource {a : IAddr} {sel : Byte} {s : State}
    (h : portOpen { s with port := .host } = true) :
    hostOffer (.readResource a sel) s = .next (acceptExecute (objReadResource s.cfg a sel).n
      (objReadResource s.cfg a sel).p { s with port := .host }) :=
  if_pos h

/-- From FlashInit's call with CCIF = 1 to the acceptance of its command. -/
theorem runInputs_flashInit_offer {s : State} {cap : CapDraw} {ins : List Input} {i : Instr}
    (hi : i = .readResource s.cfg.ifrAddr s.cfg.ifrSel) (hready : s.ready = true)
    (hctl : s.req.ctl = .idle) (hswp : s.swp.state = .idle) (hd : s.cfg.dflashPhysSize ≠ 0)
    (hm : makes ins [.host (.call .flashInit cap), .host .go, .host .go]) :
    ∃ t, runInputs ins s = .next t ∧ Made [.read .fstat] s t ∧ t.cfg = s.cfg ∧
      t.seq = { s.seq with
        n := (objReadResource s.cfg s.cfg.ifrAddr s.cfg.ifrSel).n
        buf := (objReadResource s.cfg s.cfg.ifrAddr s.cfg.ifrSel).p
        owner := .host
        state := .waitReady } ∧
      t.seq.halted = false ∧ t.ccif = true ∧ t.req = { s.req with ctl := .commands .init 0 [i], call := .inFlight } := by
  simp only [State.ready, Bool.and_eq_true] at hready
  obtain ⟨⟨hport, hc⟩, -⟩ := hready
  obtain ⟨hidle, hhalt, -⟩ := portOpen_iff.mp hport
  obtain ⟨r1, i1, hm1, run1⟩ := runInputs_of_makes_cons hm
  obtain ⟨r2, i2, hm2, run2⟩ := runInputs_of_makes_go hm1
  obtain ⟨r3, last⟩ := runInputs_of_makes_last_go hm2
  subst hi
  have go2 := hostGo_initPoll_command (s := floatFstat r2 (hostGoto .initPoll (floatFstat r1 s))) rfl
    (by simpa [State.ccif] using hc) hd
  have hopen {u : State} (hs : u.seq = s.seq) (hw : u.swp = s.swp) :
      portOpen { u with port := .host } = true :=
    portOpen_iff.mpr (by simp [hs, hw, hidle, hhalt, hswp])
  refine ⟨_, Eq.trans (run1 _ _ (stepInput_call r1 hctl)) (Eq.trans (run2 _ _ go2)
    (Eq.trans (last _) (Eq.trans (hostGo_offer rfl rfl) (hostOffer_readResource (hopen rfl rfl))))),
    ⟨[_], by rw [acceptExecute_history]; rfl, rfl⟩, ?_, ?_, ?_, ?_, acceptExecute_host_req rfl⟩
  · rw [acceptExecute_cfg]
    rfl
  · rw [acceptExecute_seq]
    rfl
  · simpa using hhalt
  · simpa [State.ccif] using hc

/-- From the answer to FlashInit's command to its return: a failure is returned at once, and after a success the two
bytes are read back and the sizes stored. -/
theorem runInputs_flashInit_end {s : State} {i : Instr} {r : Code} {ins : List Input}
    (hctl : s.req.ctl = .commands .init 0 [i]) (hcall : s.req.call = .done r)
    (hdone : s.req.initDone = false) (hm : makes ins (List.replicate 4 (.host .go))) :
    ∃ u l, runInputs ins s = .next u ∧ Made l s u ∧ (∀ x ∈ l, ∃ q, x = .read q) ∧ u.req.ctl = .idle ∧
      u.req.ret.code = r ∧
      (r ≠ 0 → u.cfg = s.cfg ∧ u.req.initDone = false) ∧
      (r = 0 → u.req.initDone = true ∧ u.cfg = { s.cfg with
        dflashSize := s.cfg.departTable.get
          ⟨(u.win.fccob.get s.cfg.departSlot).toNat % 16, Nat.mod_lt _ (by decide)⟩
        eeeSize := s.cfg.eeeSizeTable.get
          ⟨(u.win.fccob.get s.cfg.eeeSizeSlot).toNat % 16, Nat.mod_lt _ (by decide)⟩ }) := by
  obtain ⟨r1, i1, hm1, run1⟩ := runInputs_of_makes_go hm
  by_cases hr : r = 0
  · subst hr
    obtain ⟨r2, i2, hm2, run2⟩ := runInputs_of_makes_go hm1
    obtain ⟨r3, i3, hm3, run3⟩ := runInputs_of_makes_go hm2
    obtain ⟨r4, last⟩ := runInputs_of_makes_last_go hm3
    have go1 := hostGo_init_done (s := floatFstat r1 s) hctl hcall
    refine ⟨_, [.read (.fccob s.cfg.departSlot), .read (.fccob s.cfg.eeeSizeSlot)],
      Eq.trans (run1 _ _ go1) (Eq.trans (run2 _ _ (hostGo_readBack rfl)) (Eq.trans (run3 _ _ (hostGo_readBack rfl))
        (Eq.trans (last _) ((hostGo_readBack_init rfl).trans (initStore_stores (.inl hdone)))))),
      ⟨[_, _, _], rfl, rfl⟩, by simp, rfl, rfl, by simp, fun _ => ⟨rfl, rfl⟩⟩
  · have go1 := hostGo_init_failed (s := floatFstat r1 s) hctl hcall hr
    obtain ⟨f, hrun⟩ := runInputs_idle 3 (s := hostReturnCode r (floatFstat r1 s)) rfl hm1
    exact ⟨_, [], (run1 _ _ go1).trans hrun, ⟨[_], rfl, rfl⟩, by simp, rfl, rfl, fun _ => ⟨rfl, hdone⟩,
      fun h => absurd h hr⟩

/-- The FCCOB slot and byte of a write to one. -/
def Access.load : Access → Option (Slot × Byte)
  | .write (.fccob i) v => some (i, v)
  | _ => none

theorem loads_eq (h : List Event) : loads h = (accesses h).filterMap Access.load := by
  unfold loads Access.load
  rfl

theorem loads_reads {l : List Access} (h : ∀ x ∈ l, ∃ q, x = .read q) : l.filterMap Access.load = [] := by
  refine List.filterMap_eq_nil_iff.mpr fun x hx => ?_
  obtain ⟨q, rfl⟩ := h x hx
  rfl

/-- The trace of a command loads its slots (R156, R167). -/
theorem loads_executeTrace (n : Slot) (p : Slots) (k1 k2 : Nat) :
    (executeTrace n p k1 k2).filterMap Access.load = loadsOfSlots n p := by
  have hreads (k : Nat) : (List.replicate k (Access.read .fstat)).filterMap Access.load = [] :=
    loads_reads fun x hx => ⟨_, List.eq_of_mem_replicate hx⟩
  have hslots (l : List Slot) :
      (l.map fun j => Access.write (.fccob j) (p.get j)).filterMap Access.load
        = l.map fun i => (i, p.get i) := by
    rw [List.filterMap_map]
    exact congrFun List.filterMap_eq_map _
  have hstatus (v : Byte) : [Access.write .fstat v].filterMap Access.load = [] := rfl
  simp only [executeTrace, List.flatten_cons, List.flatten_nil, List.filterMap_append, hreads, hslots,
    hstatus, List.nil_append, List.append_nil, loadsOfSlots]

/-- Read-Resource's object for FlashInit in the table R126. -/
theorem loadsOf_objReadResource {cfg : Config} (h : cfg.layout = Layout.standard) (a : IAddr) (sel : Byte) :
    loadsOfSlots (objReadResource cfg a sel).n (objReadResource cfg a sel).p
      = loadsOf [0x03, a.extractLsb' 16 8, a.extractLsb' 8 8, a.extractLsb' 0 8, 0, 0, 0, 0, sel] := by
  simp only [objReadResource, commandOf, h]
  rfl

/-- Settles O58: the acceptance, the service and the end of FlashInit's command, one after the other. -/
theorem flashInitDiscoversSizes : Obligations.FlashInitDiscoversSizes := by
  refine ⟨fun s cap o ins hready hctl hswp _ hl hd hdone hm => ?_, fun s bd be hdone hctl => ?_⟩
  · obtain ⟨i1, rest, rfl, hm1, hrest⟩ := makes_append.mp hm
    obtain ⟨i2, i3, rfl, hm2, hm3⟩ := makes_append.mp hrest
    obtain ⟨t, hrun1, hmade1, hcfg1, hseq1, hhalt1, hc1, hreq1⟩ :=
      runInputs_flashInit_offer rfl hready hctl hswp hd hm1
    obtain ⟨v, hrun2, hmade2, hcfg2, hreq2⟩ := runInputs_service_host (s := t) (o := o) (by rw [hseq1])
      hhalt1 hc1 (by rw [hseq1]) (by rw [hseq1]; exact hm2)
    obtain ⟨u, l, hrun3, hmade3, hreads, hidle, hcode, hfail, hok⟩ :=
      runInputs_flashInit_end (s := v) (by rw [hreq2, hreq1]) (by rw [hreq2])
        (by rw [hreq2, hreq1]; exact hdone) hm3
    rw [hcfg2, hcfg1] at hfail hok
    obtain ⟨h, hh, hacc⟩ := (hmade1.trans hmade2).trans hmade3
    let c := objReadResource s.cfg s.cfg.ifrAddr s.cfg.ifrSel
    have hloads : loads h = loadsOfSlots c.n c.p := by
      rw [loads_eq, hacc, List.filterMap_append, List.filterMap_append, loads_executeTrace,
        loads_reads hreads, List.append_nil, hseq1]
      rfl
    exact ⟨u, h, c.n, c.p,
      (runInputs_append_next hrun1).trans ((runInputs_append_next hrun2).trans hrun3), hidle, hcode, hh,
      laidOut_spec _ (Layout.row_ok hl .readResource) rfl, hloads,
      fun hstd => hloads.trans (loadsOf_objReadResource hstd _ _), hfail, hok⟩
  · intro size eee
    refine ⟨fun hs he => ?_, fun hne => (hostGo_readBack_init hctl).trans (initStore_refuses hdone hne)⟩
    have hstore : initStore 0 size eee s = _ := initStore_stores (.inr ⟨hs.symm, he.symm⟩)
    obtain ⟨-, -, hcfg⟩ := initStore_next hstore
    exact ⟨_, (hostGo_readBack_init hctl).trans hstore, hcfg hdone, rfl, rfl, rfl, rfl, rfl⟩

end Sys2Proof.Machine
end

section
/-! PROOFS. The registers of the window: what each write stores and leaves (10_state.md R33, R39, R41, 40_sequencer.md
R169), which accesses are misuse (R37, R38, R93, R163, R164, R307), and the effects of a completion (R170). -/

namespace Sys2Proof.Machine

/-! ## Writes of FSTAT -/

theorem getLsbD_clearErrors (f v : Byte) (i : Nat) :
    (clearErrors f v).getLsbD i = (f.getLsbD i && !(v.getLsbD i && (0x70 : Byte).getLsbD i)) := by
  by_cases h : i < 8
  · simp [clearErrors, h]
  · simp [BitVec.getLsbD_of_ge, Nat.le_of_not_lt h]

theorem getLsbD_launchedStatus (f : Byte) (i : Nat) :
    (launchedStatus f).getLsbD i = (f.getLsbD i && (0x7E : Byte).getLsbD i) := by
  simp [launchedStatus]

/-- R33's condition of a launch, on FSTAT before the write: ACCERR and FPVIOL count as the write leaves them. -/
theorem launches_clearErrors (f v : Byte) : launches (clearErrors f v) v =
    (v.getLsbD 7 && f.getLsbD 7 && !(f.getLsbD 5 && !v.getLsbD 5) && !(f.getLsbD 4 && !v.getLsbD 4)) := by
  simp only [launches, ccif, accerr, fpviol, getLsbD_clearErrors]
  simp

/-- A write of FSTAT as one update of the state. -/
theorem writeFstat_eq (who : Agent) (v : Byte) (s : State) :
    let f := clearErrors s.win.fstat v
    writeFstat who v s = { s with
      win := { s.win with fstat := if launches f v then launchedStatus f else f }
      nvm := if launches f v then { s.nvm with busy := true, cmd := s.win.fccob } else s.nvm
      history := .regWrite who .fstat (regAddr s.cfg .fstat) v :: s.history } := by
  obtain ⟨hl, h⟩ | ⟨hl, h⟩ := storeFstat_cases v (logWrite who .fstat v s) <;>
    simp only [logWrite_win] at hl <;> simp only [writeFstat, h, hl, if_true, Bool.false_eq_true, if_false] <;> rfl

/-- Settles O22: the clears and the launch, bit by bit. -/
theorem fstatWriteSemantics : Obligations.FstatWriteSemantics := by
  intro who v s
  simp only [writeFstat_eq, ← launches_clearErrors]
  cases hl : launches (clearErrors s.win.fstat v) v
  · simp only [Bool.false_eq_true, if_false, getLsbD_clearErrors]
    simp
  · simp only [if_true, getLsbD_clearErrors, getLsbD_launchedStatus]
    simp

/-! ## Writes of FCCOB -/

/-- Settles O23: FCCOB takes a byte while CCIF = 1 only. -/
theorem fccobWriteSemantics : Obligations.FccobWriteSemantics := by
  intro who i v s
  cases hc : s.ccif
  · have h : writeFccob who i v s = logWrite who (.fccob i) v s := if_neg (by simpa [State.ccif] using hc)
    simp only [h]
    exact ⟨by simp, rfl, fun hs _ => by simp [hostWrite, hs, hc]⟩
  · have h : writeFccob who i v s = { logWrite who (.fccob i) v s with
        win := { s.win with fccob := s.win.fccob.set i v } } := if_pos (by simpa [State.ccif] using hc)
    simp only [h]
    exact ⟨by simp [get_set_slot], rfl, by simp⟩

/-! ## Writes of a protection register -/

/-- A register of R41. -/
def IsProtection (r : Reg) : Prop := r = .fdprot ∨ r = .feprot ∨ ∃ i, r = .fprot i

theorem hostWrite_prot_inFlight {r : Reg} {v : Byte} {s : State} (hr : IsProtection r) (hc : s.ccif = false) :
    hostWrite r v s = .fault .protWriteInFlight := by
  obtain rfl | rfl | ⟨i, rfl⟩ := hr <;> simp [hostWrite, hc]

theorem hostWrite_prot_serving {r : Reg} {v : Byte} {s : State} (hr : IsProtection r) (hc : s.ccif = true)
    (hs : s.serving = true) : hostWrite r v s = .fault .concurrentAccess := by
  obtain rfl | rfl | ⟨i, rfl⟩ := hr <;> simp [hostWrite, hc, hs]

theorem get_set_fprot (w : Vector Byte 4) (k i : Fin 4) (b : Byte) :
    (w.set k b).get i = if i = k then b else w.get i := by
  simp [Vector.get_eq_getElem, Vector.getElem_set, Fin.ext_iff, eq_comm]

theorem hostWrite_prot_stores {r : Reg} {v : Byte} {s : State} (hr : IsProtection r) (hc : s.ccif = true)
    (hs : s.serving = false) : ∃ t, hostWrite r v s = .next t ∧
      readReg t r = protValue s.nvm.protMode (readReg s r) v ∧ (∀ q, q ≠ r → readReg t q = readReg s q) ∧
      t = { s with win := t.win, history := .regWrite .host r (regAddr s.cfg r) v :: s.history } := by
  obtain rfl | rfl | ⟨i, rfl⟩ := hr
  · refine ⟨storeFdprot v (logWrite .host .fdprot v s), by simp [hostWrite, hc, hs], rfl, fun q hq => ?_, rfl⟩
    cases q <;> simp_all [readReg]
  · refine ⟨storeFeprot v (logWrite .host .feprot v s), by simp [hostWrite, hc, hs], rfl, fun q hq => ?_, rfl⟩
    cases q <;> simp_all [readReg]
  · refine ⟨storeFprot i v (logWrite .host (.fprot i) v s), by simp [hostWrite, hc, hs],
      by simp [readReg, get_set_fprot], fun q hq => ?_, rfl⟩
    cases q <;> simp_all [readReg, get_set_fprot]

/-- Settles O29: the three cases of a write of a protection register. -/
theorem protectionWriteSemantics : Obligations.ProtectionWriteSemantics := fun _ _ _ hr =>
  ⟨hostWrite_prot_inFlight hr, hostWrite_prot_serving hr, hostWrite_prot_stores hr⟩

/-! ## Misuse -/

theorem State.serving_iff {s : State} : s.serving = true ↔ s.seq.state ≠ .idle ∨ s.swp.state ≠ .idle := by
  simp [State.serving]

theorem serving_floatFstat (rsv : BitVec 3) (s : State) : (floatFstat rsv s).serving = s.serving := rfl

/-- A register is at every register's address, in every configuration. -/
theorem exists_regAt (cfg : Config) (r : Reg) : ∃ q, regAt cfg (regAddr cfg r) = some q := by
  refine Option.isSome_iff_exists.mp (List.find?_isSome.mpr ⟨r, ?_, by simp⟩)
  exact List.mem_of_getElem? (allRegs_index r)

/-- HOST writes none of the registers of SEQ's protocol, nor FCNFG, while a request is served (R164, R307). -/
theorem hostWrite_serving {r : Reg} (v : Byte) {s : State} (hr : r = .fstat ∨ r = .fcnfg ∨ ∃ i, r = .fccob i)
    (hs : s.serving = true) : hostWrite r v s = .fault .concurrentAccess := by
  obtain rfl | rfl | ⟨i, rfl⟩ := hr <;> simp [hostWrite, hs]

/-- Other code reads no register while a request is served (R307). -/
theorem hostRead_serving (r : Reg) {s : State} (hs : s.serving = true) :
    hostRead r s = .fault .concurrentAccess := by
  simp [hostRead, hs]

/-- Nor by its address. -/
theorem hostMemRead_serving (r : Reg) {s : State} (hs : s.serving = true) :
    hostMemRead (regAddr s.cfg r) s = .fault .concurrentAccess := by
  obtain ⟨q, hq⟩ := exists_regAt s.cfg r
  simp [hostMemRead, hq, hostRead_serving q hs]

/-- The callback reads no register by its address (R163). -/
theorem cbStep_read_window (r : Reg) {s : State} (hc : s.seq.state = .cbWait) :
    cbStep (.arrayRead (regAddr s.cfg r)) s = .fault .concurrentAccess := by
  obtain ⟨q, hq⟩ := exists_regAt s.cfg r
  simp [cbStep, hc, callbackMemRead, hq]

/-- Settles O32: each misuse stops its step, and FCNFG is written while nothing is served. -/
theorem misuseFaults : Obligations.MisuseFaults := by
  intro s rsv r v q
  refine ⟨fun hr hs => ?_, fun hc => ⟨?_, ?_, ?_⟩, fun hs => ⟨?_, ?_, ?_⟩, fun hr => ?_, fun hq hw => ?_⟩
  · have hs : (floatFstat rsv s).serving = true := State.serving_iff.mpr hs
    exact hostWrite_serving v (hr.imp_right .inr) hs
  · simp [stepInput, moveStep, cbStep, hc]
  · exact cbStep_read_window (s := floatFstat rsv s) r hc
  · simp [stepInput, moveStep, cbStep, hc]
  · exact hostRead_serving r (s := floatFstat rsv s) (State.serving_iff.mpr hs)
  · exact hostMemRead_serving r (s := floatFstat rsv s) (State.serving_iff.mpr hs)
  · exact hostWrite_serving v (s := floatFstat rsv s) (.inr (.inl rfl)) (State.serving_iff.mpr hs)
  · obtain rfl | rfl := hr <;> rfl
  · have hs : (floatFstat rsv s).serving = false := by simp [State.serving, hq, hw]
    exact ⟨storeFcnfg (logWrite .host .fcnfg v (floatFstat rsv s)),
      by simp [stepInput, moveStep, hostStep, hostWrite, hs], rfl⟩

/-! ## A completion -/

/-- Each slot with a drawn byte takes it (R170). -/
theorem get_returnBytes (ret : Vector (Option Byte) 12) (j : Slot) : ∀ (l : List Slot) (f : Slots),
    (returnBytes ret f l).get j = if j ∈ l then (ret.get j).getD (f.get j) else f.get j
  | [], f => by simp [returnBytes]
  | i :: t, f => by
    rw [returnBytes, get_returnBytes ret j t]
    by_cases hj : j = i
    · subst hj
      cases hr : ret.get j <;> simp [get_set_slot]
    · cases hr : ret.get i <;> simp [get_set_slot, hj]

theorem mem_allSlots (i : Slot) : i ∈ allSlots := by
  revert i; decide

theorem get_returnBytes_all (ret : Vector (Option Byte) 12) (f : Slots) (i : Slot) :
    (returnBytes ret f allSlots).get i = (ret.get i).getD (f.get i) := by
  rw [get_returnBytes, if_pos (mem_allSlots i)]

/-- A completion leaves the reserved bits 3:1 as they are. -/
theorem getLsbD_completedStatus_reserved (f : Byte) (o : NvmOutcome) {i : Nat} (h1 : 1 ≤ i) (h3 : i ≤ 3) :
    (completedStatus f o).getLsbD i = f.getLsbD i := by
  obtain rfl | rfl | rfl : i = 1 ∨ i = 2 ∨ i = 3 := by omega
  all_goals
    unfold completedStatus
    cases o.rdcolerr <;> cases o.accerr <;> cases o.fpviol <;> cases o.mgstat0 <;> simp [flagIf]

theorem opcodeOf_eq_some_iff {b : Byte} {o : Opcode} : opcodeOf b = some o ↔ b = opcodeByte o :=
  ⟨fun h => (opcodeByte_of_opcodeOf h).symm, fun h => h ▸ opcodeOf_opcodeByte o⟩

theorem opcodeOf_eq_none_iff {b : Byte} : opcodeOf b = none ↔ b ∉ opcodes.map opcodeByte := by
  simp [opcodeOf]

theorem SwapCodes.has_iff {c : SwapCodes} {b : Byte} :
    c.has b = true ↔ b ∈ [c.report, c.setInd, c.setPrep, c.setComp] := by
  simp [SwapCodes.has, or_assoc]

/-- A command without a bound on its effect: an unlisted opcode, or a swap control with an unlisted code (R131,
R132). -/
theorem unlisted_iff {cfg : Config} {cmd : Slots} : unlisted cfg cmd = true ↔
    cmd[0] ∉ opcodes.map opcodeByte ∨ (cmd[0] = 0x46 ∧ fieldByte cfg.layout.pFlashSwap cmd 3 ∉
      [cfg.swapCode.report, cfg.swapCode.setInd, cfg.swapCode.setPrep, cfg.swapCode.setComp]) := by
  rw [← opcodeOf_eq_none_iff, ← SwapCodes.has_iff, show (0x46 : Byte) = opcodeByte .pFlashSwap from rfl,
    ← opcodeOf_eq_some_iff]
  unfold unlisted
  cases opcodeOf cmd[0] with
  | none => simp
  | some o => cases o <;> simp [Layout.row]

/-! ### The commands that may change what is abstract -/

theorem mayChangeFsec_iff {cfg : Config} {cmd : Slots} : mayChangeFsec cfg cmd = true ↔
    cmd[0] ∈ ([0x45, 0x49] : List Byte) ∨ unlisted cfg cmd = true := by
  simp [mayChangeFsec, opcodeOf_eq_some_iff, opcodeByte, or_comm, or_left_comm]

theorem mayChangeSwap_iff {cfg : Config} {cmd : Slots} : mayChangeSwap cfg cmd = true ↔
    cmd[0] ∈ ([0x46, 0x09] : List Byte) ∨ unlisted cfg cmd = true := by
  simp [mayChangeSwap, opcodeOf_eq_some_iff, opcodeByte, or_comm, or_left_comm]

theorem mayChangeIfr_iff {cfg : Config} {cmd : Slots} : mayChangeIfr cfg cmd = true ↔
    cmd[0] ∈ ([0x43, 0x80] : List Byte) ∨ unlisted cfg cmd = true := by
  simp [mayChangeIfr, opcodeOf_eq_some_iff, opcodeByte, or_comm, or_left_comm]

theorem mayChangeEeram_iff {cfg : Config} {cmd : Slots} : mayChangeEeram cfg cmd = true ↔
    cmd[0] = 0x81 ∨ unlisted cfg cmd = true := by
  simp [mayChangeEeram, opcodeOf_eq_some_iff, opcodeByte, or_comm]

/-- A completion as one update of the state (R170). -/
theorem nvmStep_busy (o : NvmOutcome) {s : State} (hb : s.nvm.busy = true) : nvmStep o s = { s with
    win := completedWindow s.cfg o s.nvm.cmd s.win, nvm := completedNvm s.cfg o s.nvm } :=
  if_pos hb

theorem nvmStep_idle (o : NvmOutcome) {s : State} (hb : s.nvm.busy = false) : nvmStep o s = s :=
  if_neg (by simp [hb])

/-- Settles O24: the completion's window and hidden state, field by field. -/
theorem completionEffects : Obligations.CompletionEffects := by
  intro o s hb
  obtain ⟨h6, h5, h4, h0⟩ := completedStatus_flags s.win.fstat o
  have reserved {i : Nat} := @getLsbD_completedStatus_reserved s.win.fstat o i
  rw [nvmStep_busy o hb]
  exact ⟨get_returnBytes_all o.ret s.win.fccob, ccif_completedStatus s.win.fstat o, h6, h5, h4,
    reserved (by decide) (by decide), reserved (by decide) (by decide), reserved (by decide) (by decide), h0,
    rfl, rfl, rfl, rfl, rfl, rfl, rfl, rfl, rfl, rfl, rfl, rfl, rfl, rfl,
    mayChangeFsec_iff.trans (or_congr_right unlisted_iff), mayChangeSwap_iff.trans (or_congr_right unlisted_iff),
    mayChangeIfr_iff.trans (or_congr_right unlisted_iff), mayChangeEeram_iff.trans (or_congr_right unlisted_iff)⟩

end Sys2Proof.Machine
end

section
/-! PROOFS. What a step can do to the window and the controller, said once for every agent; and from it
`FSTAT[7] = not nvm_busy` (10_state.md R32, R60), the canonical form of the memories, and that protection is only
added in normal mode (R41, R279). -/

namespace Sys2Proof.Machine

/-! ## The effect of a step on the registers -/

/-- `t` is `s` after one register write of an agent. -/
inductive Stored (s : State) : State → Prop
  | fstat (who : Agent) (v : Byte) : Stored s (writeFstat who v s)
  | fccob (who : Agent) (i : Slot) (v : Byte) : Stored s (writeFccob who i v s)
  | fcnfg (v : Byte) : Stored s (storeFcnfg (logWrite .host .fcnfg v s))
  | fprot (i : Fin 4) (v : Byte) : Stored s (storeFprot i v (logWrite .host (.fprot i) v s))
  | fdprot (v : Byte) : Stored s (storeFdprot v (logWrite .host .fdprot v s))
  | feprot (v : Byte) : Stored s (storeFeprot v (logWrite .host .feprot v s))

theorem hostWrite_stored {r : Reg} {v : Byte} {s t : State} (h : hostWrite r v s = .next t) : Stored s t := by
  obtain ⟨-, h⟩ := hostWrite_next h
  obtain ⟨rfl, rfl⟩ | ⟨rfl, rfl⟩ | ⟨i, rfl, -, rfl⟩ | ⟨i, rfl, -, rfl⟩ | ⟨rfl, -, rfl⟩ | ⟨rfl, -, rfl⟩ := h
  · exact .fstat .host v
  · exact .fcnfg v
  · exact .fccob .host i v
  · exact .fprot i v
  · exact .fdprot v
  · exact .feprot v

/-- The window and the controller of `t` are those of `s`. -/
def SameRegisters (s t : State) : Prop := t.win = s.win ∧ t.nvm = s.nvm

theorem Passive.sameRegisters {l : List Access} {s t : State} (h : Passive l s t) : SameRegisters s t :=
  ⟨h.win, h.nvm⟩

/-- What one move can do to the window and the controller: nothing, one register write, a completion, or a reset. -/
inductive RegisterEffect (m : Move) (s t : State) : Prop
  | kept (h : SameRegisters s t)
  | stored {u : State} (hu : Stored s u) (h : SameRegisters u t)
  | completed (o : NvmOutcome) (hm : m = .nvm o) (ht : t = nvmStep o s)
  | reset (l : Launch) (hm : m = .reset l)
      (ht : t = State.launch s.cfg l s.nvm.flash s.nvm.ifr s.nvm.eeram s.history s.inputs s.tick)

theorem moveStep_registers {m : Move} {s t : State} (h : moveStep m s = .next t) : RegisterEffect m s t := by
  cases m with
  | seq =>
    cases h
    cases seqStep_effect s with
    | quiet h => exact .kept h.sameRegisters
    | read h => exact .kept h.sameRegisters
    | fstat _ h => exact .stored (.fstat _ _) h.sameRegisters
    | load _ h => exact .stored (.fccob _ _ _) h.sameRegisters
  | swp => exact (swpStep_effect h).elim (.kept ·.sameRegisters) (.kept ·.sameRegisters)
  | nvm o => cases h; exact .completed o rfl rfl
  | cb c => exact .kept (cbStep_effect h).sameRegisters
  | host q =>
    cases hostStep_effect h with
    | passive _ h => exact .kept h.sameRegisters
    | write hw h _ => exact .stored (hostWrite_stored hw) h.sameRegisters
    | sizes _ _ _ hp hs =>
      obtain ⟨rfl, -, -⟩ := initStore_next hs
      exact .kept hp.sameRegisters
  | debugResume f => cases h; exact .kept (resumeFsm_effect f s).sameRegisters
  | reset l =>
    obtain ⟨-, rfl⟩ := resetStep_next h
    exact .reset l rfl rfl
  | lowPower =>
    obtain rfl := lowPowerStep_next h
    exact .kept ⟨rfl, rfl⟩

/-- A predicate that using up the input, drawing the reserved bits and every move keep is kept by every step. -/
theorem step_keeps {P : State → Prop} (hc : ∀ s, P s → P (consumeInput s))
    (hf : ∀ rsv s, P s → P (floatFstat rsv s))
    (hm : ∀ m s t, P s → moveStep m s = .next t → P t) {s t : State} (hs : P s) (h : step s = .next t) : P t :=
  hm _ _ _ (hf _ _ (hc _ hs)) h

/-! ## CCIF is the controller at rest -/

theorem SameRegisters.ccifInv {s t : State} (h : SameRegisters s t) (hs : CcifInv s) : CcifInv t := by
  obtain ⟨hw, hn⟩ := h
  simpa only [CcifInv, State.ccif, hw, hn] using hs

theorem ccif_clearErrors (f v : Byte) : ccif (clearErrors f v) = ccif f := by
  simp only [ccif, getLsbD_clearErrors]
  simp

/-- A write clears CCIF exactly where it makes the controller busy (R169). -/
theorem writeFstat_ccifInv (who : Agent) (v : Byte) {s : State} (hs : CcifInv s) :
    CcifInv (writeFstat who v s) := by
  rw [writeFstat_eq]
  cases hl : launches (clearErrors s.win.fstat v) v
  · simpa [CcifInv, State.ccif, ccif_clearErrors] using hs
  · simp [CcifInv, State.ccif]

theorem Stored.ccifInv {s t : State} (h : Stored s t) (hs : CcifInv s) : CcifInv t := by
  cases h with
  | fstat who v => exact writeFstat_ccifInv who v hs
  | fccob who i v =>
    unfold writeFccob storeFccob
    split <;> exact hs
  | fcnfg v => exact hs
  | fprot i v => exact hs
  | fdprot v => exact hs
  | feprot v => exact hs

theorem nvmStep_ccifInv (o : NvmOutcome) {s : State} (hs : CcifInv s) : CcifInv (nvmStep o s) := by
  cases hb : s.nvm.busy
  · rw [nvmStep_idle o hb]
    exact hs
  · rw [nvmStep_busy o hb]
    exact ccif_completedStatus s.win.fstat o

theorem moveStep_ccifInv {m : Move} {s t : State} (hs : CcifInv s) (h : moveStep m s = .next t) : CcifInv t := by
  cases moveStep_registers h with
  | kept h => exact h.ccifInv hs
  | stored hu h => exact h.ccifInv (hu.ccifInv hs)
  | completed o _ ht => exact ht ▸ nvmStep_ccifInv o hs
  | reset l _ ht => simp [ht, CcifInv, State.launch, State.ccif, ccif]

/-- Settles O37: CCIF and the controller change together. -/
theorem stepKeepsCcifInv : Obligations.StepKeepsCcifInv := fun _ _ =>
  step_keeps (fun s hs => by simpa [CcifInv, State.ccif] using hs)
    (fun rsv s hs => by simpa [CcifInv] using hs) (fun _ _ _ => moveStep_ccifInv)

/-! ## The memories -/

/-- Only a completion writes the memories, and it writes them byte by byte. -/
theorem nvmStep_memoryInv (o : NvmOutcome) {s : State} (hs : MemoryInv s) : MemoryInv (nvmStep o s) := by
  obtain ⟨hflash, hifr⟩ := hs
  cases hb : s.nvm.busy
  · rw [nvmStep_idle o hb]
    exact ⟨hflash, hifr⟩
  · rw [nvmStep_busy o hb]
    refine ⟨Memory.wf_writeCells _ _ hflash, ?_⟩
    simp only [completedNvm]
    split
    · exact Memory.wf_writeCells _ _ hifr
    · exact hifr

theorem Stored.keepsHidden {s t : State} (h : Stored s t) : KeepsHidden s t := by
  cases h with
  | fstat who v => exact (writeFstat_keepsHidden who v s).1
  | fccob who i v => exact (writeFccob_keepsHidden who i v s).1
  | _ => exact ⟨rfl, rfl, rfl, rfl, rfl, rfl, rfl⟩

theorem SameRegisters.memoryInv {s t : State} (h : SameRegisters s t) (hs : MemoryInv s) : MemoryInv t := by
  obtain ⟨-, hn⟩ := h
  simpa only [MemoryInv, hn] using hs

theorem KeepsHidden.memoryInv {s t : State} (h : KeepsHidden s t) (hs : MemoryInv s) : MemoryInv t := by
  simpa only [MemoryInv, h.flash, h.ifr] using hs

theorem moveStep_memoryInv {m : Move} {s t : State} (hs : MemoryInv s) (h : moveStep m s = .next t) :
    MemoryInv t := by
  cases moveStep_registers h with
  | kept h => exact h.memoryInv hs
  | stored hu h => exact h.memoryInv (hu.keepsHidden.memoryInv hs)
  | completed o _ ht => exact ht ▸ nvmStep_memoryInv o hs
  | reset l _ ht => exact ht ▸ hs

/-- Settles O39: a completion's writes keep the canonical form. -/
theorem stepKeepsMemoryInv : Obligations.StepKeepsMemoryInv := fun _ _ =>
  step_keeps (fun s hs => by simpa [MemoryInv] using hs) (fun _ _ hs => hs) (fun _ _ _ => moveStep_memoryInv)

/-! ## Protection -/

/-- No protection register of `t` has a bit that it does not have in `s`. -/
def OnlyAddsProtection (s t : State) : Prop :=
  (∀ j, t.win.fprot.get j &&& s.win.fprot.get j = t.win.fprot.get j) ∧
    t.win.fdprot &&& s.win.fdprot = t.win.fdprot ∧ t.win.feprot &&& s.win.feprot = t.win.feprot

theorem OnlyAddsProtection.of_eq {s t : State} (hp : t.win.fprot = s.win.fprot)
    (hd : t.win.fdprot = s.win.fdprot) (he : t.win.feprot = s.win.feprot) : OnlyAddsProtection s t := by
  simp [OnlyAddsProtection, hp, hd, he]

theorem protValue_normal_subset (old v : Byte) : protValue .normal old v &&& old = protValue .normal old v := by
  rw [protValue, BitVec.and_comm, ← BitVec.and_assoc, BitVec.and_self]

theorem Stored.onlyAddsProtection {s t : State} (h : Stored s t) (hm : s.nvm.protMode = .normal) :
    OnlyAddsProtection s t := by
  cases h with
  | fstat who v => rw [writeFstat_eq]; exact .of_eq rfl rfl rfl
  | fccob who i v =>
    unfold writeFccob storeFccob
    split <;> exact .of_eq rfl rfl rfl
  | fcnfg v => exact .of_eq rfl rfl rfl
  | fprot i v =>
    refine ⟨fun j => ?_, BitVec.and_self, BitVec.and_self⟩
    by_cases hj : j = i
    · simp [get_set_fprot, hj, hm, protValue_normal_subset]
    · simp [get_set_fprot, hj]
  | fdprot v => simp [OnlyAddsProtection, hm, protValue_normal_subset]
  | feprot v => simp [OnlyAddsProtection, hm, protValue_normal_subset]

theorem nvmStep_protection (o : NvmOutcome) (s : State) : OnlyAddsProtection s (nvmStep o s) := by
  unfold nvmStep
  split <;> exact .of_eq rfl rfl rfl

/-- Settles O30: in normal mode a write of a protection register is an AND, and nothing else writes one. -/
theorem normalModeOnlyAddsProtection : Obligations.NormalModeOnlyAddsProtection := by
  intro i s t hr hm h
  change OnlyAddsProtection (floatFstat i.rsv s) t
  cases moveStep_registers h with
  | kept h => exact .of_eq (by rw [h.1]) (by rw [h.1]) (by rw [h.1])
  | stored hu h =>
    unfold OnlyAddsProtection
    rw [h.1]
    exact hu.onlyAddsProtection hm
  | completed o _ ht => exact ht ▸ nvmStep_protection o _
  | reset l hl _ => exact absurd hl (hr l)

end Sys2Proof.Machine
end

section
/-! PROOFS. SWP's states in their phases (42_swap_fsm.md R229): what each agent's step can do to SWP's state and phase.
HOST's steps leave the two FSMs alone but for the offer of an instruction, which is exec of it (40_sequencer.md R150,
R152); and the state after reset meets every invariant (70_reset_and_hazards.md R330). -/

namespace Sys2Proof.Machine

/-! ## HOST and the two FSMs -/

/-- SEQ and SWP of `t` are those of `s`. -/
structure KeepsFsms (s t : State) : Prop where
  seq : t.seq = s.seq
  swp : t.swp = s.swp

theorem hostCommands_keepsFsms (goal : Goal) (todo : List Instr) (s : State) :
    KeepsFsms s (hostCommands goal todo s) := by
  cases todo <;> exact ⟨rfl, rfl⟩

theorem hostChecked_keepsFsms (c : Except Code Nat) (goal : Goal) (todo : Nat → List Instr) (s : State) :
    KeepsFsms s (hostChecked c goal todo s) := by
  cases c with
  | error e => exact ⟨rfl, rfl⟩
  | ok a => exact hostCommands_keepsFsms goal _ s

theorem hostUnits_keepsFsms {c : Except Code Nat} {goal : Goal} {enough : Bool} {todo : Nat → List Instr}
    {s t : State} (h : hostUnits c goal enough todo s = .next t) : KeepsFsms s t := by
  cases c with
  | error e => cases h; exact ⟨rfl, rfl⟩
  | ok a =>
    simp only [hostUnits] at h
    split at h <;> cases h
    exact hostCommands_keepsFsms goal _ s

theorem hostCapable_keepsFsms (cap : Option Code) {k : State → State} {s : State} (hk : KeepsFsms s (k s)) :
    KeepsFsms s (hostCapable cap k s) := by
  cases cap with
  | some c => exact ⟨rfl, rfl⟩
  | none => exact hk

theorem hostCommandsEnd_keepsFsms (goal : Goal) (s : State) : KeepsFsms s (hostCommandsEnd goal s) := by
  cases goal <;> exact ⟨rfl, rfl⟩

theorem hostFailed_keepsFsms (goal : Goal) (k : Nat) (r : Code) (s : State) :
    KeepsFsms s (hostFailed goal k r s) := by
  cases goal <;> exact ⟨rfl, rfl⟩

theorem Stored.keepsFsms {s t : State} (h : Stored s t) : KeepsFsms s t := by
  cases h <;> exact ⟨by simp, by simp⟩

/-- A step of HOST leaves the two FSMs as they are, or it is the offer of an instruction. -/
inductive FsmEffect (s t : State) : Prop
  | kept (h : KeepsFsms s t)
  | offer {u : State} (i : Instr) (hu : KeepsFsms s u) (h : hostOffer i u = .next t)

theorem hostStart_fsms {p : Proc} {cap : CapDraw} {s t : State} (h : hostStart p cap s = .next t) :
    FsmEffect s t := by
  cases p <;> simp only [hostStart, reduceCtorEq, Host.Outcome.next.injEq] at h
  case request r =>
    unfold hostRequest at h
    split at h
    · cases h
    · exact .offer (u := hostGoto _ s) _ ⟨rfl, rfl⟩ h
  case programLongword => exact .kept (hostUnits_keepsFsms h)
  case programPhrase => exact .kept (hostUnits_keepsFsms h)
  case programCheck => exact .kept (hostUnits_keepsFsms h)
  case deFlashPartition => exact .kept (h ▸ hostCapable_keepsFsms _ (hostCommands_keepsFsms _ _ s))
  case setEEEEnable => exact .kept (h ▸ hostCapable_keepsFsms _ (hostCommands_keepsFsms _ _ s))
  case eraseSector => exact .kept (h ▸ hostChecked_keepsFsms _ _ _ s)
  case eraseBlock => exact .kept (h ▸ hostChecked_keepsFsms _ _ _ s)
  case verifyBlock => exact .kept (h ▸ hostChecked_keepsFsms _ _ _ s)
  case verifySection => exact .kept (h ▸ hostChecked_keepsFsms _ _ _ s)
  case programSection => exact .kept (h ▸ hostChecked_keepsFsms _ _ _ s)
  all_goals exact .kept (h ▸ ⟨rfl, rfl⟩)

theorem hostCommandStep_fsms {goal : Goal} {k : Nat} {todo : List Instr} {s t : State}
    (h : hostCommandStep goal k todo s = .next t) : FsmEffect s t := by
  unfold hostCommandStep at h
  (repeat' split at h)
  · cases h; exact .kept (hostCommandsEnd_keepsFsms goal s)
  · exact .offer _ ⟨rfl, rfl⟩ h
  · cases h; exact .kept ⟨rfl, rfl⟩
  · cases h; exact .kept (hostCommandsEnd_keepsFsms goal s)
  · cases h; exact .kept ⟨rfl, rfl⟩
  · cases h; exact .kept (hostFailed_keepsFsms goal k _ s)

theorem initStore_keepsFsms {code : Code} {dflash eee : Addr} {s t : State}
    (h : initStore code dflash eee s = .next t) : KeepsFsms s t := by
  obtain ⟨rfl, -, -⟩ := initStore_next h
  exact ⟨rfl, rfl⟩

/-- HOST's step of one write, in which `k` goes on. -/
theorem hostAfterWrite_keepsFsms {r : Reg} {v : Byte} {k : State → State} {s t : State}
    (h : hostAfterWrite (hostWrite r v s) k = .next t) (hk : ∀ u, KeepsFsms u (k u)) : KeepsFsms s t := by
  obtain ⟨u, hw, rfl⟩ := hostAfterWrite_next h
  obtain ⟨hseq, hswp⟩ := (hostWrite_stored hw).keepsFsms
  exact ⟨(hk u).seq.trans hseq, (hk u).swp.trans hswp⟩

theorem hostGo_fsms {s t : State} (h : hostGo s = .next t) : FsmEffect s t := by
  unfold hostGo at h
  cases hc : s.req.ctl <;> simp only [hc] at h
  case commands => exact hostCommandStep_fsms h
  case readBack goal code failAddr todo got =>
    cases todo with
    | nil =>
      cases goal
      case init => exact .kept (initStore_keepsFsms h)
      all_goals cases h; exact .kept ⟨rfl, rfl⟩
    | cons i todo => cases h; exact .kept ⟨rfl, rfl⟩
  case initPoll =>
    (repeat' split at h)
    · cases h; exact .kept ⟨rfl, rfl⟩
    · obtain ⟨hseq, hswp⟩ := initStore_keepsFsms h
      exact .kept ⟨hseq, hswp⟩
    · cases h; exact .kept ⟨rfl, rfl⟩
  case bypass key => split at h <;> cases h <;> exact .kept ⟨rfl, rfl⟩
  case protStatus regs new => split at h <;> cases h <;> exact .kept ⟨rfl, rfl⟩
  case protProbe regs new old todo =>
    cases todo with
    | nil => cases h; exact .kept ⟨rfl, rfl⟩
    | cons r todo => exact .kept (hostAfterWrite_keepsFsms h fun _ => ⟨rfl, rfl⟩)
  case protReadback regs new old todo probe =>
    cases todo with
    | nil =>
      cases h
      unfold protDecide
      split <;> exact .kept ⟨rfl, rfl⟩
    | cons r todo => cases h; exact .kept ⟨rfl, rfl⟩
  case protWrite todo new =>
    split at h
    · exact .kept (hostAfterWrite_keepsFsms h fun _ => ⟨rfl, rfl⟩)
    · cases h; exact .kept ⟨rfl, rfl⟩
  case rmwWrite r v => exact .kept (hostAfterWrite_keepsFsms h fun _ => ⟨rfl, rfl⟩)
  case getRegs todo got => cases todo <;> cases h <;> exact .kept ⟨rfl, rfl⟩
  case protOld regs new todo old => cases todo <;> cases h <;> exact .kept ⟨rfl, rfl⟩
  all_goals cases h; exact .kept ⟨rfl, rfl⟩

theorem arrayRead_keepsFsms {addr : Addr} {s t : State} (h : arrayRead addr s = .next t) : KeepsFsms s t := by
  obtain ⟨x, -, -, rfl⟩ := arrayRead_next h
  exact ⟨rfl, rfl⟩

theorem hostStep_fsms {m : ReqMove} {s t : State} (h : hostStep m s = .next t) : FsmEffect s t := by
  cases m with
  | call p cap =>
    simp only [hostStep] at h
    split at h
    · exact hostStart_fsms h
    · cases h; exact .kept ⟨rfl, rfl⟩
  | go => exact hostGo_fsms h
  | read r =>
    simp only [hostStep, hostRead] at h
    split at h <;> cases h
    exact .kept ⟨rfl, rfl⟩
  | write r v => exact .kept (hostWrite_stored h).keepsFsms
  | arrayRead addr =>
    obtain ⟨r, -, -, rfl⟩ | ⟨-, ha⟩ := hostMemRead_next h
    · exact .kept ⟨rfl, rfl⟩
    · exact .kept (arrayRead_keepsFsms ha)

/-- Settles O5: HOST's call of a request offers the instruction it decodes to, which means what exec says. -/
theorem stepRunsTheOfferedInstruction : Obligations.StepRunsTheOfferedInstruction := by
  intro s rsv r cap t i hi hc hd
  rw [step_of_inputs hi]
  simp only [stepInput, moveStep, hostStep, floatFstat_req, hc, if_true, hostStart, hostRequest, floatFstat_cfg, hd]
  rfl

/-! ## SWP's state and phase -/

/-- SWP's state and phase in `t` are those in `s`. -/
structure KeepsSwpPlace (s t : State) : Prop where
  state : t.swp.state = s.swp.state
  phase : t.swp.phase = s.swp.phase

theorem KeepsSwpPlace.swpInv {s t : State} (h : KeepsSwpPlace s t) (hs : SwpInv s) : SwpInv t := by
  simpa only [SwpInv, h.state, h.phase] using hs

theorem KeepsFsms.keepsSwpPlace {s t : State} (h : KeepsFsms s t) : KeepsSwpPlace s t :=
  ⟨by rw [h.swp], by rw [h.swp]⟩

theorem acceptExecute_keepsSwpPlace (n : Slot) (p : Slots) (s : State) :
    KeepsSwpPlace s (acceptExecute n p s) := by
  unfold acceptExecute awaitDone
  split <;> exact ⟨rfl, rfl⟩

theorem offerObject_keepsSwpPlace {k : CommandObject} {s t : State} (h : offerObject k s = .next t) :
    KeepsSwpPlace s t := by
  obtain ⟨-, e⟩ | ⟨-, e⟩ := offerObject_cases k s <;> rw [e] at h <;> cases h
  · exact acceptExecute_keepsSwpPlace k.n k.p s
  · exact ⟨rfl, rfl⟩

/-- The end of an operation answers a request and halts an FSM; it moves neither SWP's state nor its phase. -/
theorem endOperation_keepsSwpPlace (f : Fsm) (o : Owner) (r : Code) (s : State) :
    KeepsSwpPlace s (endOperation f o r s) := by
  unfold endOperation breakIfDebug deliver
  (repeat' split) <;> exact ⟨rfl, rfl⟩

/-- An offered instruction leaves SWP's place as it is, or is a SWAP that SWP will check. -/
theorem exec_swpPlace {i : Instr} {s t : State} (h : exec i s = .next t) :
    KeepsSwpPlace s t ∨ t.swp.state = .check := by
  cases hk : commandObject s.cfg i with
  | some k => exact .inl (offerObject_keepsSwpPlace (exec_of_commandObject hk ▸ h))
  | none =>
    cases i <;> simp only [commandObject, reduceCtorEq] at hk
    case execute n p =>
      split at hk
      · cases hk
      · simp_all [exec, execExecute]
    case swap addr =>
      obtain ⟨-, e⟩ | ⟨-, e⟩ := execSwap_cases addr s <;> rw [exec, e] at h <;> cases h
      · refine .inr ?_
        unfold awaitDone
        split <;> rfl
      · exact .inl ⟨rfl, rfl⟩

theorem hostStep_swpInv {m : ReqMove} {s t : State} (hs : SwpInv s) (h : hostStep m s = .next t) : SwpInv t := by
  cases hostStep_fsms h with
  | kept h => exact h.keepsSwpPlace.swpInv hs
  | offer i hu h =>
    obtain ⟨hstate, hphase⟩ | hcheck := exec_swpPlace h
    · exact KeepsSwpPlace.swpInv ⟨hstate, hphase⟩ (hu.keepsSwpPlace.swpInv hs)
    · simp [SwpInv, hcheck]

theorem seqStep_keepsSwpPlace (s : State) : KeepsSwpPlace s (seqStep s) := by
  unfold seqStep
  split
  · exact ⟨rfl, rfl⟩
  · cases hs : s.seq.state <;> simp only
    case waitReady => unfold seqWaitReady; simp only; split <;> exact ⟨rfl, rfl⟩
    case clearErr => simp only [seqClearErr]; exact ⟨by simp, by simp⟩
    case load => unfold seqLoad; simp only; split <;> exact ⟨by simp, by simp⟩
    case launch => simp only [seqLaunch]; exact ⟨by simp, by simp⟩
    case poll => unfold seqPoll; simp only; (repeat' split) <;> exact ⟨rfl, rfl⟩
    case decode =>
      obtain ⟨hstate, hphase⟩ := endOperation_keepsSwpPlace .seq s.seq.owner (decodeStatus s.win.fstat)
        { logRead .seq .fstat s with seq := { s.seq with
            fstat := s.win.fstat, result := decodeStatus s.win.fstat, state := .idle } }
      exact ⟨hstate, hphase⟩
    all_goals exact ⟨rfl, rfl⟩

theorem cbStep_keepsSwpPlace {m : CbMove} {s t : State} (h : cbStep m s = .next t) : KeepsSwpPlace s t := by
  by_cases hc : s.seq.state = .cbWait
  · obtain ⟨-, rfl⟩ | ⟨addr, -, -, ha⟩ := cbStep_next hc h
    · exact ⟨rfl, rfl⟩
    · exact (arrayRead_keepsFsms ha).keepsSwpPlace
  · simp only [cbStep, beq_iff_eq, hc, if_false] at h
    cases h
    exact ⟨rfl, rfl⟩

theorem resumeFsm_keepsSwpPlace (f : Fsm) (s : State) : KeepsSwpPlace s (resumeFsm f s) := by
  unfold resumeFsm
  (repeat' split) <;> exact ⟨rfl, rfl⟩

/-! ## SWP's own steps -/

theorem swpInv_finish (v : Code) (s : State) : SwpInv (swpFinish v s) :=
  (endOperation_keepsSwpPlace .swp .host v _).swpInv trivial

/-- A state with a command in SEQ keeps the phase, and goes on to a state of the phase or finishes. -/
theorem swpCommand_swpInv {k : State → CommandObject} {next : SwpState} {s t : State} (hs : SwpInv s)
    (hn : SwpInv (swpGoto next s)) (h : swpCommand (fun u => offerObject (k u) u) next s = .next t) : SwpInv t := by
  obtain ⟨-, e⟩ | ⟨-, e⟩ | ⟨-, e⟩ | ⟨r, -, -, e⟩ :=
    swpCommand_cases (fun u => offerObject (k u) u) next s <;> rw [e] at h
  · obtain ⟨hstate, hphase⟩ := offerObject_keepsSwpPlace h
    exact KeepsSwpPlace.swpInv ⟨hstate, hphase⟩ hs
  · cases h; exact hs
  · cases h; exact hn
  · cases h; exact swpInv_finish r s

/-- A busy-wait stays in its phase, and leaves it for S_DISPATCH or for the read-back of its report. -/
theorem swpWait_swpInv {leave : Bool} {s t : State} (hs : SwpInv s) (h : swpWait leave s = .next t) : SwpInv t := by
  unfold swpWait at h
  (repeat' split at h)
  · cases h; exact trivial
  · cases h; exact KeepsSwpPlace.swpInv ⟨rfl, rfl⟩ hs
  · cases h; exact trivial
  · exact swpCommand_swpInv (next := .readMode) hs trivial h

theorem phase_cases (p : BitVec 2) : p = 0 ∨ p = 1 ∨ p = 2 ∨ p = 3 := by
  revert p; decide

/-- S_READMODE goes to the wait of the phase its read-back serves. -/
theorem swpAfterCommand_swpInv (s : State) : SwpInv (swpAfterCommand s) := by
  have hphase : (swpAfterCommand s).swp.phase = s.swp.phase := rfl
  have hstate : (swpAfterCommand s).swp.state = waitOfPhase s.swp.phase := by
    obtain h | h | h | h := phase_cases s.swp.phase <;> simp [swpAfterCommand, swpGoto, h, waitOfPhase]
  unfold SwpInv
  rw [hstate, hphase]
  obtain h | h | h | h := phase_cases s.swp.phase <;> simp [h, waitOfPhase]

/-- S_DISPATCH enters the state of the phase it writes. -/
theorem swpDispatch_swpInv (s : State) : SwpInv (swpDispatch s) := by
  unfold swpDispatch
  simp only
  (repeat' split)
  · exact rfl
  · exact rfl
  · exact rfl
  · exact rfl
  · exact swpInv_finish _ s

theorem swpStep_swpInv {s t : State} (hs : SwpInv s) (h : swpStep s = .next t) : SwpInv t := by
  have command {k : State → CommandObject}
      (h : swpCommand (fun u => offerObject (k u) u) .readMode s = .next t) : SwpInv t :=
    swpCommand_swpInv (next := .readMode) hs trivial h
  unfold swpStep at h
  split at h
  · cases h; exact hs
  · cases hst : s.swp.state <;> simp only [hst] at h
    case idle => cases h; exact hs
    case check =>
      cases h
      unfold swpCheck
      split
      · exact rfl
      · exact swpInv_finish _ s
    case readMode => cases h; exact swpAfterCommand_swpInv s
    case dispatch => cases h; exact swpDispatch_swpInv s
    case waitUninit => exact swpWait_swpInv hs h
    case waitReady => exact swpWait_swpInv hs h
    case waitComp => exact swpWait_swpInv hs h
    case erase =>
      have hphase : s.swp.phase = 3 := by simpa only [SwpInv, hst] using hs
      exact swpCommand_swpInv (next := .setComp) hs hphase h
    all_goals exact command h

theorem moveStep_swpInv {m : Move} {s t : State} (hs : SwpInv s) (h : moveStep m s = .next t) : SwpInv t := by
  cases m with
  | seq => cases h; exact (seqStep_keepsSwpPlace s).swpInv hs
  | swp => exact swpStep_swpInv hs h
  | nvm o => cases h; simpa [SwpInv] using hs
  | cb c => exact (cbStep_keepsSwpPlace h).swpInv hs
  | host q => exact hostStep_swpInv hs h
  | debugResume f => cases h; exact (resumeFsm_keepsSwpPlace f s).swpInv hs
  | reset l =>
    obtain ⟨-, rfl⟩ := resetStep_next h
    exact trivial
  | lowPower =>
    obtain rfl := lowPowerStep_next h
    exact hs

/-- Settles O40: SWP's own steps enter each state in its phase, and the other agents move neither. -/
theorem stepKeepsSwpInv : Obligations.StepKeepsSwpInv := fun _ _ =>
  step_keeps (fun s hs => by simpa [SwpInv] using hs) (fun _ _ hs => hs) (fun _ _ _ => moveStep_swpInv)

/-! ## The state after reset -/

/-- No result code is held or reported. -/
theorem codesInv_reset : CodesInv State.reset := by
  refine ⟨?_, ?_, ?_, ?_, ?_, ?_⟩ <;> simp [State.reset, State.launch]

/-- Settles O42: at reset CCIF is set, both FSMs are idle and the memories are empty. -/
theorem resetMeetsInvariants : Obligations.ResetMeetsInvariants :=
  ⟨rfl, trivial, Memory.wf_reset, trivial, codesInv_reset, rfl, rfl, rfl⟩

end Sys2Proof.Machine
end

section
/-! PROOFS. The register window as its users see it (20_memory.md): the FCCOB image of a programmed longword (R98,
R128), the getters (43_requester_interface.md R275, R284) and the bit primitives (R92). -/

namespace Sys2Proof.Machine

/-! ## The slots a served command is launched with -/

/-- An instruction with a command object, offered when it is accepted and served without waiting: the controller has
captured the object at the launch, over the slots that stood before (R121, R169). -/
theorem exec_served_captures {s : State} {i : Instr} {k : CommandObject} {o : NvmOutcome} {ins : List Input}
    (hi : commandObject s.cfg i = some k) (hready : s.ready = true) (hm : makes ins (commandMoves k.n o)) :
    ∃ t u, exec i s = .next t ∧ runInputs ins t = .next u ∧
      ∀ j, u.nvm.cmd.get j = loadedSlot k.n k.p s.win.fccob j := by
  simp only [State.ready, Bool.and_eq_true] at hready
  obtain ⟨⟨hport, hc⟩, -⟩ := hready
  obtain ⟨-, hhalt, -⟩ := portOpen_iff.mp hport
  obtain ⟨f, v, h, hrun, -, hv, -⟩ := runInputs_service (s := acceptExecute k.n k.p s) (o := o) (by simp)
    (by simpa using hhalt) (by simpa [State.ccif] using hc) (by simpa using hm)
  refine ⟨_, _, (exec_of_commandObject hi).trans (if_pos hport), hrun, fun j => ?_⟩
  rw [endOperation_nvm]
  refine (hv j).trans ?_
  rw [acceptExecute_seq, acceptExecute_win]

/-! ## A longword in its slots -/

/-- The data of a longword command stand in slots 4..7 (R98, R125). -/
theorem Layout.programLongword_data {l : Layout} (h : l.ok = true) :
    l.programLongword.params.drop 3 = [4, 5, 6, 7] := by
  simp only [Layout.ok, Bool.and_eq_true, beq_iff_eq] at h
  obtain ⟨⟨⟨-, hdata⟩, -⟩, -⟩ := h
  exact hdata

/-- Data byte `j` of ProgramLongword is byte `j` of the packed longword, in a slot that LOAD writes. -/
theorem objProgramLongword_data {cfg : Config} (h : cfg.layout.ok = true) (a : IAddr) (v : BitVec 32)
    {j : Nat} {i : Slot} (hi : [4, 5, 6, 7][j]? = some i) :
    i.val ≤ (objProgramLongword cfg a v).n.val ∧
      (objProgramLongword cfg a v).p.get i = (pack4 cfg.endian v).getD j 0 := by
  have hok := Layout.row_ok h .programLongword
  obtain ⟨-, -, hslots⟩ := LayoutRow.ok_iff.mp hok
  have hparam : (cfg.layout.row .programLongword).params[3 + j]? = some i := by
    rw [← List.getElem?_drop]
    exact Layout.programLongword_data h ▸ hi
  refine ⟨(hslots i (List.mem_of_getElem? hparam)).2, (laidOut_param hok hparam).trans ?_⟩
  rw [Nat.add_comm]
  rfl

/-- Settles O13: slots 4..7 are captured at the launch as the packed longword. -/
theorem programmedLongwordFollowsEndianness : Obligations.ProgrammedLongwordFollowsEndianness := by
  intro s a o ins hready hl hm
  obtain ⟨t, u, hexec, hrun, hcmd⟩ := exec_served_captures (i := .programLongword a 0xAABBCCDD) rfl hready hm
  have slot {j : Nat} {i : Slot} (hi : [4, 5, 6, 7][j]? = some i) :
      u.nvm.cmd.get i = (pack4 s.cfg.endian 0xAABBCCDD).getD j 0 := by
    obtain ⟨hle, hbyte⟩ := objProgramLongword_data hl a 0xAABBCCDD hi
    rw [hcmd i, loadedSlot, if_pos hle, hbyte]
  have image : [u.nvm.cmd[4], u.nvm.cmd[5], u.nvm.cmd[6], u.nvm.cmd[7]] = pack4 s.cfg.endian 0xAABBCCDD := by
    change [u.nvm.cmd.get 4, u.nvm.cmd.get 5, u.nvm.cmd.get 6, u.nvm.cmd.get 7] = _
    rw [slot (j := 0) rfl, slot (j := 1) rfl, slot (j := 2) rfl, slot (j := 3) rfl]
    rfl
  refine ⟨t, u, hexec, hrun, fun he => ?_, fun he => ?_⟩
  · rw [image, he]
    decide
  · rw [image, he]
    decide

/-! ## The getters -/

/-- A draw of FSTAT's reserved bits is seen in FSTAT alone. -/
theorem map_readReg_floatFstat (rsv : BitVec 3) (s : State) {regs : List Reg} (h : .fstat ∉ regs) :
    regs.map (readReg (floatFstat rsv s)) = regs.map (readReg s) := by
  refine List.map_congr_left fun r hr => ?_
  cases r with
  | fstat => exact absurd hr h
  | _ => rfl

theorem hostGo_getRegs {s : State} {r : Reg} {todo : List Reg} {got : List Byte}
    (h : s.req.ctl = .getRegs (r :: todo) got) :
    hostGo s = .next (hostGoto (.getRegs todo (got ++ [readReg s r])) (logRead .host r s)) := by
  simp only [hostGo, h]

theorem hostGo_getRegs_end {s : State} {got : List Byte} (h : s.req.ctl = .getRegs [] got) :
    hostGo s = .next (hostReturn { code := codeSuccess, failAddr := none, data := got } s) := by
  simp only [hostGo, h]

/-- The reads of a getter: one step each, and the return of what they read. -/
theorem runInputs_getRegs : ∀ (regs : List Reg) {s : State} {got : List Byte} {ins : List Input},
    s.req.ctl = .getRegs regs got → .fstat ∉ regs → makes ins (List.replicate (regs.length + 1) (.host .go)) →
    ∃ u, runInputs ins s = .next u ∧ u.req.ret.data = got ++ regs.map (readReg s) ∧
      Made (regs.map .read) s u ∧ u.seq = s.seq
  | [], s, got, ins, hctl, _, hm => by
    obtain ⟨rsv, last⟩ := runInputs_of_makes_last_go hm
    exact ⟨_, (last s).trans (hostGo_getRegs_end hctl), (List.append_nil got).symm, ⟨[_], rfl, rfl⟩, rfl⟩
  | r :: regs, s, got, ins, hctl, hne, hm => by
    obtain ⟨rsv, rest, hrest, run⟩ := runInputs_of_makes_go hm
    have hgo := hostGo_getRegs (s := floatFstat rsv s) hctl
    obtain ⟨u, hrun, hdata, hmade, hseq⟩ :=
      runInputs_getRegs regs (s := hostGoto _ _) rfl (List.not_mem_of_not_mem_cons hne) hrest
    refine ⟨u, (run _ _ hgo).trans hrun, ?_, Made.trans (l := [.read r]) ⟨[_], rfl, rfl⟩ hmade, hseq⟩
    rw [hdata, List.append_assoc, ← map_readReg_floatFstat rsv s hne]
    rfl

/-- A getter of `regs`, from its call to its return (R275, R284). -/
theorem runInputs_getter {s : State} {p : Proc} {cap : CapDraw} {regs : List Reg} {ins : List Input}
    (hidle : s.req.ctl = .idle) (hne : .fstat ∉ regs)
    (hstart : ∀ rsv, hostStart p cap (floatFstat rsv s) = .next (hostGoto (.getRegs regs []) (floatFstat rsv s)))
    (hm : makes ins (.host (.call p cap) :: List.replicate (regs.length + 1) (.host .go))) :
    ∃ u h, runInputs ins s = .next u ∧ u.req.ret.data = regs.map (readReg s) ∧ u.history = h ++ s.history ∧
      accesses h = regs.map .read ∧ u.seq = s.seq := by
  obtain ⟨rsv, rest, hrest, run⟩ := runInputs_of_makes_cons hm
  obtain ⟨u, hrun, hdata, ⟨h, hh, hacc⟩, hseq⟩ :=
    runInputs_getRegs regs (s := hostGoto (.getRegs regs []) (floatFstat rsv s)) rfl hne hrest
  refine ⟨u, h, (run _ _ ((stepInput_call rsv hidle).trans (hstart rsv))).trans hrun, ?_, hh, hacc, hseq⟩
  exact hdata.trans (map_readReg_floatFstat rsv s hne)

/-! ## The bit primitives -/

theorem hostGo_testBit {s : State} {r : Reg} {m : Byte} (h : s.req.ctl = .testBit r m) :
    hostGo s = .next (hostReturn
      { code := codeSuccess, failAddr := none, data := [if readReg s r &&& m = 0 then 0 else 1] }
      (logRead .host r s)) := by
  simp only [hostGo, h, ne_eq, ite_not]

theorem hostGo_rmwRead {s : State} {r : Reg} {m : Byte} {set : Bool} (h : s.req.ctl = .rmwRead r m set) :
    hostGo s = .next (hostGoto
      (.rmwWrite r (if set then readReg s r ||| m else readReg s r &&& ~~~m)) (logRead .host r s)) := by
  simp only [hostGo, h]

theorem hostGo_rmwWrite {s : State} {r : Reg} {v : Byte} (h : s.req.ctl = .rmwWrite r v) :
    hostGo s = hostAfterWrite (hostWrite r v s) (hostReturnCode codeSuccess) := by
  simp only [hostGo, h]

/-- Settles O60: the getters are runs of reads, and each bit primitive is taken step by step. -/
theorem gettersAndBitPrimitives : Obligations.GettersAndBitPrimitives := by
  refine ⟨fun s cap ins hidle => ⟨fun hm => ?_, fun hm => ?_, fun hm => ?_, fun hm => ?_⟩,
    fun s cap r m hidle => ⟨if_pos hidle, if_pos hidle, if_pos hidle⟩, fun s r m v => ⟨fun h => ?_, fun h => ?_,
      fun h => ?_, fun h => ⟨fun f hf => ?_, fun t ht => ?_⟩⟩⟩
  · exact runInputs_getter (regs := [.fsec]) hidle (by decide) (fun _ => rfl) hm
  · have hget := runInputs_getter (regs := protRegs s.cfg .pflash) hidle (by simp [protRegs]) (fun _ => rfl)
      (by simpa [protRegs] using hm)
    simp only [protRegs, List.map_map] at hget
    exact hget
  · exact runInputs_getter (regs := [.fdprot]) hidle (by decide) (fun _ => rfl) hm
  · exact runInputs_getter (regs := [.feprot]) hidle (by decide) (fun _ => rfl) hm
  · exact ⟨_, _, hostGo_testBit h, rfl, rfl, rfl, rfl⟩
  · exact hostGo_rmwRead h
  · exact hostGo_rmwRead h
  · exact (hostGo_rmwWrite h).trans (congrArg (hostAfterWrite · _) hf)
  · exact ⟨_, _, (hostGo_rmwWrite h).trans (congrArg (hostAfterWrite · _) ht), rfl, rfl, rfl, rfl⟩

end Sys2Proof.Machine
end

section
/-! PROOFS. Requests as instructions (30_encoding.md R131-R133, R151): what the decoder rejects, command objects written
out from the examples, and the step after a fetch word. -/

namespace Sys2Proof.Machine

/-! ## The decoder's rejection -/

theorem decode_of_long {cfg : Config} {n : BitVec 4} {p : Slots} (hn : 11 < n.toNat) :
    decode cfg (.execute n p) = .error .paramCount :=
  if_pos hn

/-- A request whose count is in range decodes, whatever its bytes. -/
theorem exists_decode_of_short (cfg : Config) {n : BitVec 4} (p : Slots) (hn : n.toNat ≤ 11) :
    ∃ i, decode cfg (.execute n p) = .ok i := by
  simp only [decode, if_neg (Nat.not_lt.mpr hn)]
  (repeat' split) <;> exact ⟨_, rfl⟩

theorem exec_execute_long {n : BitVec 4} (p : Slots) (s : State) (hn : 11 < n.toNat) :
    exec (.execute n p) s = .refused .refuseParamCount :=
  dif_neg (Nat.not_lt.mpr hn)

/-- Settles O3: a SWAP and an EXECUTE with a count up to 11 decode; one with a greater count is rejected, and
refused by exec. -/
theorem longCountsAreRefused : Obligations.LongCountsAreRefused := by
  refine ⟨fun cfg r e => ⟨fun h => ?_, ?_⟩, fun s n p => exec_execute_long p s⟩
  · cases r with
    | swap addr => cases h
    | execute n p =>
      by_cases hn : 11 < n.toNat
      · rw [decode_of_long hn] at h
        cases h
        exact ⟨n, p, rfl, hn, rfl⟩
      · obtain ⟨i, hi⟩ := exists_decode_of_short cfg p (Nat.not_lt.mp hn)
        rw [hi] at h
        cases h
  · rintro ⟨n, p, rfl, hn, rfl⟩
    exact decode_of_long hn

/-! ## Written-out objects -/

/-- Settles O4: each object is decoded by computation. -/
theorem writtenOutCommandsDecode : Obligations.WrittenOutCommandsDecode :=
  ⟨rfl, rfl, rfl, rfl, rfl, rfl⟩

/-! ## The step after a fetch word -/

/-- The offer of a request that HOST makes next leaves FSTAT as it stands, and is exec of the instruction the request
decodes to. -/
theorem step_offering {s : State} {r : Request} {i : Instr} (hi : decode s.cfg r = .ok i) :
    step (offering s r) = exec i { s with
      port := .host
      req := { s.req with ctl := .commands .plain 0 [i], call := .none } } := by
  have h := stepRunsTheOfferedInstruction (offering s r) _ r _ s.inputs i rfl rfl hi
  simpa only [offering, floatReserved_self] using h

/-- Settles O6: a fetch word is the offer of its request. -/
theorem stepRunsTheFetchWord : Obligations.StepRunsTheFetchWord :=
  fun _ _ _ _ => step_offering

end Sys2Proof.Machine
end

section
/-! PROOFS. An instruction with a command object is served as that object (40_sequencer.md R150, R155-R161, R169, R170,
R176): the acceptance, the service without waiting, and what they leave of every field. -/

namespace Sys2Proof.Machine

/-! ## What the requesters keep -/

/-- From `s` to `t` HOST and SWP keep all but the request they wait for. -/
structure KeepsRequesters (s t : State) : Prop where
  req : t.req = { s.req with call := t.req.call }
  swp : t.swp = { s.swp with call := t.swp.call }

theorem KeepsRequesters.trans {s t u : State} (h : KeepsRequesters s t) (h' : KeepsRequesters t u) :
    KeepsRequesters s u :=
  ⟨by rw [h'.req, h.req], by rw [h'.swp, h.swp]⟩

theorem acceptExecute_keepsRequesters (n : Slot) (p : Slots) (s : State) :
    KeepsRequesters s (acceptExecute n p s) := by
  unfold acceptExecute awaitDone
  split <;> exact ⟨rfl, rfl⟩

/-- The end of an EXECUTE answers a request and may halt SEQ, no more. -/
theorem endOperation_keepsRequesters {s t : State} (o : Owner) (r : Code) (hreq : t.req = s.req)
    (hswp : t.swp = s.swp) : KeepsRequesters s (endOperation .seq o r t) := by
  cases o <;> cases h : t.cfg.debugEnable <;>
    exact ⟨by simp [endOperation, breakIfDebug, deliver, h, hreq],
      by simp [endOperation, breakIfDebug, deliver, h, hswp]⟩

/-! ## The accesses of a service -/

theorem length_slotsUpTo (n : Slot) : (allSlots.filter fun j => decide (j.val ≤ n.val)).length = n.val + 1 := by
  revert n; decide

/-- The length of the trace R167. -/
theorem length_executeTrace (n : Slot) (p : Slots) (k1 k2 : Nat) :
    (executeTrace n p k1 k2).length = n.val + k1 + k2 + 4 := by
  simp only [executeTrace, List.flatten_cons, List.flatten_nil, List.length_append, List.length_replicate,
    List.length_map, List.length_cons, List.length_nil, length_slotsUpTo]
  omega

/-! ## The service of an accepted command -/

theorem State.ready_iff {s : State} :
    s.ready = true ↔ portOpen s = true ∧ s.ccif = true ∧ s.nvm.busy = false := by
  simp [State.ready, and_assoc]

/-- The run that serves an accepted command without waiting leaves what `Served` says. -/
theorem acceptExecute_served {s : State} (hready : s.ready = true) (n : Slot) (p : Slots) {o : NvmOutcome}
    {ins : List Input} (hm : makes ins (commandMoves n o)) :
    ∃ u, runInputs ins (acceptExecute n p s) = .next u ∧ Served n p o s u := by
  obtain ⟨hport, hc, -⟩ := State.ready_iff.mp hready
  obtain ⟨-, hhalt, -⟩ := portOpen_iff.mp hport
  obtain ⟨f, v, h, hrun, hf, hv, hacc⟩ := runInputs_service (s := acceptExecute n p s) (o := o) (by simp)
    (by simpa using hhalt) (by simpa [State.ccif] using hc) (by simpa using hm)
  simp only [acceptExecute_cfg, acceptExecute_win, acceptExecute_seq, acceptExecute_nvm,
    acceptExecute_history] at hrun hv hacc
  obtain ⟨e, he, hnone⟩ := (passive_endOperation .seq s.port (outcomeCode o) _).history
  refine ⟨_, hrun, ?_⟩
  constructor
  case seqIdle => rw [endOperation_seq]
  case result => rw [endOperation_seq]
  case latched => rw [endOperation_seq]; exact ⟨rfl, rfl, rfl⟩
  case answered =>
    cases s.port
    · exact (endOperation_answers .seq (outcomeCode o) _).1
    · exact (endOperation_answers .seq (outcomeCode o) _).2
  case halted => rw [endOperation_seq]; simp [hhalt]
  case command => rw [endOperation_nvm]; exact hv
  case idle => rw [endOperation_nvm]; rfl
  case fccob =>
    intro i
    rw [endOperation_win, ← hv i]
    exact get_returnBytes_all o.ret v i
  case status => rw [endOperation_win]; exact hf
  case decoded => rw [endOperation_seq]; exact hf
  case accesses =>
    refine ⟨e ++ h, ?_, ?_⟩
    · rw [he, List.append_assoc]
    · rw [accessCount_eq, accesses_append, hacc, hnone, List.append_nil, length_executeTrace]
  case config => simp
  case protection => rw [endOperation_win, endOperation_nvm]; exact ⟨rfl, rfl, rfl, rfl⟩
  case fopt => rw [endOperation_win]; rfl
  case fsec => rw [endOperation_win, endOperation_nvm]; rfl
  case fcnfg => rw [endOperation_win]; rfl
  case flash => rw [endOperation_nvm]; rfl
  case untouched =>
    intro x hx
    rw [endOperation_nvm] at hx ⊢
    exact Memory.read_writeCells _ hx o.flash s.nvm.flash
  case ifr => rw [endOperation_nvm]; rfl
  case eeram => rw [endOperation_nvm]; rfl
  case swapState => rw [endOperation_nvm]; rfl
  case others =>
    refine ⟨by simp, by simp, by simp, KeepsRequesters.swp ?kept, KeepsRequesters.req ?kept⟩
    exact (acceptExecute_keepsRequesters n p s).trans (endOperation_keepsRequesters _ _ rfl rfl)

/-- An instruction with a command object, offered when it is accepted, is served as that object. -/
theorem servedAs_commandObject {s : State} {i : Instr} {k : CommandObject} (hready : s.ready = true)
    (hi : commandObject s.cfg i = some k) : ServedAs i k.n k.p s := by
  obtain ⟨hport, -, -⟩ := State.ready_iff.mp hready
  exact ⟨(exec_of_commandObject hi).trans (if_pos hport), fun _ _ => acceptExecute_served hready k.n k.p⟩

/-- The command object of an EXECUTE with a count in range is its own. -/
theorem commandObject_execute (cfg : Config) (n : Slot) (p : Slots) :
    commandObject cfg (.execute (BitVec.ofNat 4 n.val) p) = some ⟨n, p⟩ := by
  have hn : (BitVec.ofNat 4 n.val).toNat = n.val := Nat.mod_eq_of_lt (by omega)
  simp [commandObject, hn]

/-- Settles O12: an EXECUTE is served as the object it carries. -/
theorem executeIsServed : Obligations.ExecuteIsServed := fun s n p hready =>
  servedAs_commandObject hready (commandObject_execute s.cfg n p)

end Sys2Proof.Machine
end

section
/-! PROOFS. The bytes of the arrays a completion changes (40_sequencer.md R170, 41_commands.md R190-R207): a drawn byte
lands where `mayChange` admits it and nowhere else, and where that is, opcode by opcode. -/

namespace Sys2Proof.Machine

/-! ## Drawn bytes in a memory -/

theorem Memory.writeCells_append (p : Nat → Bool) : ∀ (l l' : List Host.Cell) (m : Memory),
    Memory.writeCells p (l ++ l') m = Memory.writeCells p l' (Memory.writeCells p l m)
  | [], _, _ => rfl
  | (_, _) :: l, l', _ => Memory.writeCells_append p l l' _

/-- An address that is not listed reads as before. -/
theorem Memory.read_writeCells_unlisted (p : Nat → Bool) {x : Nat} : ∀ {l : List Host.Cell} (m : Memory),
    (∀ q ∈ l, q.1 ≠ x) → Memory.read (Memory.writeCells p l m) x = Memory.read m x
  | [], _, _ => rfl
  | (a, v) :: t, m, h => by
    obtain ⟨ha, ht⟩ := List.forall_mem_cons.mp h
    rw [Memory.writeCells, Memory.read_writeCells_unlisted p _ ht]
    split
    · exact Memory.read_write_other m v ha.symm
    · rfl

/-- An admitted address reads as the last byte listed for it, in a memory of canonical form. -/
theorem Memory.read_writeCells_last {p : Nat → Bool} {x : Nat} (hx : p x = true) {m : Memory}
    (hm : Memory.wf m = true) (pre : List Host.Cell) (b : Byte) {post : List Host.Cell}
    (hpost : ∀ q ∈ post, q.1 ≠ x) :
    Memory.read (Memory.writeCells p (pre ++ (x, b) :: post) m) x = b := by
  rw [Memory.writeCells_append, Memory.writeCells, if_pos hx, Memory.read_writeCells_unlisted p _ hpost]
  exact Memory.read_write_same x b (Memory.wf_writeCells p pre hm)

/-! ## A completion's bytes -/

/-- A byte the command may not change reads as before its completion. -/
theorem read_nvmStep_kept {s : State} {x : Nat} (o : NvmOutcome) (hb : s.nvm.busy = true)
    (hx : mayChange s.cfg s.nvm.cmd x = false) :
    Memory.read (nvmStep o s).nvm.flash x = Memory.read s.nvm.flash x := by
  rw [nvmStep_busy o hb]
  exact Memory.read_writeCells _ hx o.flash s.nvm.flash

/-- A byte the command may change reads as the last one drawn for it. -/
theorem read_nvmStep_drawn {s : State} {x : Nat} {o : NvmOutcome} {b : Byte} {pre post : List Host.Cell}
    (hb : s.nvm.busy = true) (hm : Memory.wf s.nvm.flash = true) (ho : o.flash = pre ++ (x, b) :: post)
    (hpost : ∀ q ∈ post, q.1 ≠ x) (hx : mayChange s.cfg s.nvm.cmd x = true) :
    Memory.read (nvmStep o s).nvm.flash x = b := by
  rw [nvmStep_busy o hb, completedNvm, ho]
  exact Memory.read_writeCells_last hx hm pre b hpost

/-! ## What each command may change -/

/-- How a listed command's rule bounds its effect on the arrays (R190-R207). -/
inductive ArrayEffect where
  /-- It has none. -/
  | none
  /-- The bytes of its footprint. -/
  | footprint
  /-- No bound. -/
  | unbounded

/-- The bound on each listed command's effect. -/
def arrayEffect : Opcode → ArrayEffect
  | .verifyBlock | .verifySection | .programCheck | .readResource | .verifyAllBlock | .readOnce | .programOnce
  | .securityBypass | .programPartition | .setEERAM => .none
  | .programLongword | .programPhrase | .eraseBlock | .eraseSector | .programSection => .footprint
  | .eraseAllBlock | .pFlashSwap | .eraseAllBlockUnsecure => .unbounded

/-- Whether the effect takes in a byte that is, or is not, one of the command's footprint. -/
def ArrayEffect.admits : ArrayEffect → Bool → Bool
  | .none, _ => false
  | .footprint, inside => inside
  | .unbounded, _ => true

/-- What a listed command may change is its effect on the array bytes. -/
theorem mayChange_listed {cfg : Config} {cmd : Slots} {op : Opcode} (h : cmd[0] = opcodeByte op) (x : Nat) :
    mayChange cfg cmd x = (decide (x < 2 ^ 24) && (arrayEffect op).admits (inFootprint cfg op cmd x)) := by
  rw [mayChange, opcodeOf_eq_some_iff.mpr h]
  cases op <;> rfl

/-- The commands that verify or read, or whose effect is elsewhere. -/
theorem mayChange_none {cfg : Config} {cmd : Slots}
    (h : cmd[0] ∈ ([0x00, 0x01, 0x02, 0x03, 0x40, 0x41, 0x43, 0x45, 0x80, 0x81] : List Byte)) (x : Nat) :
    mayChange cfg cmd x = false := by
  obtain ⟨op, hop, hbyte⟩ := List.mem_map.mp (show cmd[0] ∈ [Opcode.verifyBlock, .verifySection, .programCheck,
    .readResource, .verifyAllBlock, .readOnce, .programOnce, .securityBypass, .programPartition,
    .setEERAM].map opcodeByte from h)
  have heffect : arrayEffect op = .none := by
    clear hbyte
    revert op
    simp [arrayEffect]
  rw [mayChange_listed hbyte.symm, heffect]
  exact Bool.and_false _

/-- The commands without a bound, the unlisted opcodes among them. -/
theorem mayChange_unbounded {cfg : Config} {cmd : Slots} {x : Nat} (hx : x < 2 ^ 24)
    (h : cmd[0] ∈ ([0x44, 0x46, 0x49] : List Byte) ∨ cmd[0] ∉ opcodes.map opcodeByte) :
    mayChange cfg cmd x = true := by
  rcases h with h | h
  · obtain ⟨op, hop, hbyte⟩ := List.mem_map.mp
      (show cmd[0] ∈ [Opcode.eraseAllBlock, .pFlashSwap, .eraseAllBlockUnsecure].map opcodeByte from h)
    have heffect : arrayEffect op = .unbounded := by
      clear hbyte
      revert op
      simp [arrayEffect]
    rw [mayChange_listed hbyte.symm, heffect, decide_eq_true hx]
    rfl
  · rw [mayChange, opcodeOf_eq_none_iff.mpr h, decide_eq_true hx]
    rfl

/-- Of a command with a footprint, the bytes inside it. -/
theorem mayChange_footprint {cfg : Config} {cmd : Slots} {op : Opcode} (heffect : arrayEffect op = .footprint)
    (h : cmd[0] = opcodeByte op) (x : Nat) :
    mayChange cfg cmd x = (decide (x < 2 ^ 24) && inFootprint cfg op cmd x) := by
  rw [mayChange_listed h, heffect]
  rfl

theorem inFootprint_iff {cfg : Config} {cmd : Slots} {op : Opcode} {a n x : Nat}
    (h : footprint cfg op cmd = some (a, n)) : inFootprint cfg op cmd x = true ↔ a ≤ x ∧ x < a + n := by
  simp [inFootprint, h, inRange]

/-- A footprint that is the unit which holds `a`: the bytes with the quotient of `a` in its region. -/
theorem inFootprint_unit_iff {cfg : Config} {cmd : Slots} {op : Opcode} {a p d x : Nat}
    (h : footprint cfg op cmd = some (unitStart p d a, unitSize p d a)) (hp : 0 < p) (hd : 0 < d) :
    inFootprint cfg op cmd x = true ↔ (a < 0x800000 ∧ x / p = a / p) ∨
      (0x800000 ≤ a ∧ 0x800000 ≤ x ∧ (x - 0x800000) / d = (a - 0x800000) / d) := by
  have hunit := div_eq_iff_unit hp a x
  have hunit' := div_eq_iff_unit hd (a - 0x800000) (x - 0x800000)
  have hle := Nat.mod_le (a - 0x800000) d
  rw [inFootprint_iff h, unitStart, unitSize, dflashInternal, eq_comm (a := x / p), hunit,
    eq_comm (a := (x - 0x800000) / d), hunit']
  by_cases ha : a < 0x800000
  · rw [if_pos ha, if_pos ha]
    omega
  · rw [if_neg ha, if_neg ha]
    omega

/-- Settles O25: a completion writes the drawn bytes that `mayChange` admits, and each command's is its effect. -/
theorem completionArrayFootprint : Obligations.CompletionArrayFootprint := by
  intro o s x hb cmd a same sameUnit
  have kept (op : Opcode) {P : Prop} (heffect : arrayEffect op = .footprint)
      (hiff : inFootprint s.cfg op cmd x = true ↔ P) (hop : cmd[0] = opcodeByte op) (hout : ¬P) : same :=
    read_nvmStep_kept o hb (by
      rw [mayChange_footprint heffect hop, Bool.eq_false_iff.mpr (mt hiff.mp hout), Bool.and_false])
  refine ⟨fun h => read_nvmStep_kept o hb (mayChange_none h x),
    kept .programLongword rfl (inFootprint_iff rfl), kept .programPhrase rfl (inFootprint_iff rfl),
    kept .programSection rfl (inFootprint_iff rfl),
    fun hop hp hd => kept .eraseSector rfl (inFootprint_unit_iff rfl hp hd) hop,
    fun hop hp hd => kept .eraseBlock rfl (inFootprint_unit_iff rfl hp hd) hop, ?_⟩
  intro b pre post hm hx ho hpost lands
  have drawn (op : Opcode) {P : Prop} (heffect : arrayEffect op = .footprint)
      (hiff : inFootprint s.cfg op cmd x = true ↔ P) (hop : cmd[0] = opcodeByte op) (hin : P) : lands :=
    read_nvmStep_drawn hb hm ho hpost (by
      rw [mayChange_footprint heffect hop, hiff.mpr hin, decide_eq_true hx, Bool.and_true])
  exact ⟨fun hop h1 h2 => drawn .programLongword rfl (inFootprint_iff rfl) hop ⟨h1, h2⟩,
    fun hop h1 h2 => drawn .programPhrase rfl (inFootprint_iff rfl) hop ⟨h1, h2⟩,
    fun hop h1 h2 => drawn .programSection rfl (inFootprint_iff rfl) hop ⟨h1, h2⟩,
    fun hop hp hd => drawn .eraseSector rfl (inFootprint_unit_iff rfl hp hd) hop,
    fun hop hp hd => drawn .eraseBlock rfl (inFootprint_unit_iff rfl hp hd) hop,
    fun h => read_nvmStep_drawn hb hm ho hpost (mayChange_unbounded hx h)⟩

end Sys2Proof.Machine
end

section
/-! PROOFS. The wrappers of HOST (43_requester_interface.md R261-R269): a call that passes its checks issues its
commands or, with none to issue, returns Success; one that fails its capability check returns the drawn code. -/

namespace Sys2Proof.Machine

/-! ## What a call leaves -/

/-- A HOST call that ends in the command loop, before its first command, with the commands `l` to issue. -/
def Issues (goal : Goal) (l : List Instr) (s : State) (r : Result) : Prop :=
  ∃ u, r = .next u ∧ u.req.ctl = .commands goal 0 l ∧ u.req.call = .none ∧ u.seq = s.seq ∧
    u.history = s.history

theorem issues_hostCommands (rsv : BitVec 3) (goal : Goal) {l : List Instr} (s : State) (h : l ≠ []) :
    Issues goal l s (.next (hostCommands goal l (floatFstat rsv s))) := by
  cases l with
  | nil => exact absurd rfl h
  | cons i t => exact ⟨_, rfl, rfl, rfl, rfl, rfl⟩

theorem endsUntouched_hostReturnCode (rsv : BitVec 3) (c : Code) (s : State) :
    EndsUntouched c s (.next (hostReturnCode c (floatFstat rsv s))) :=
  ⟨_, rfl, rfl, rfl, rfl, rfl, rfl, rfl, rfl, namedFlags_floatReserved rsv s.win.fstat, rfl⟩

/-! ## The checks of a call -/

/-- A request that is aligned and in a region passes the checks (R261, R262). -/
theorem checkRequest_ok {cfg : Config} {f : BoundForm} {al dest size a : Nat} (hd : dest % al = 0)
    (hn : size % al = 0) (ht : translate cfg f dest size = some a) :
    checkRequest cfg f al dest size = .ok a := by
  simp [checkRequest, alignError, hd, hn, ht]

/-- The sector size is that of the region that holds the request (R266). -/
theorem wrapperSector_eq (cfg : Config) (dest size : Nat) : wrapperSector cfg dest size =
    if endsInP cfg dest size then cfg.psectorSize.toNat else cfg.dsectorSize.toNat := by
  simp [wrapperSector, inPFlash, inBlock, endsInP]

/-- The units of a nonempty request are some. -/
theorem map_range_units_ne_nil {n u : Nat} (hu : n % u = 0) (hn : 0 < n) (hpos : 0 < u) (f : Nat → Instr) :
    (List.range (n / u)).map f ≠ [] := by
  have hle : u ≤ n := Nat.le_of_dvd hn (Nat.dvd_of_mod_eq_zero hu)
  simpa [Nat.div_eq_zero_iff, hpos.ne'] using hle

theorem map_range_units_nil {n : Nat} (hn : n = 0) (u : Nat) (f : Nat → Instr) :
    (List.range (n / u)).map f = [] := by
  simp [hn]

/-! ## Calls that pass or fail their checks -/

/-- A call with checks that issues its commands. -/
theorem issues_hostChecked (rsv : BitVec 3) {c : Except Code Nat} {a : Nat} (goal : Goal) {todo : Nat → List Instr}
    (s : State) (hc : c = .ok a) (hl : todo a ≠ []) :
    Issues goal (todo a) s (.next (hostChecked c goal todo (floatFstat rsv s))) :=
  hc ▸ issues_hostCommands rsv goal s hl

/-- A call with checks and nothing to issue. -/
theorem endsUntouched_hostChecked (rsv : BitVec 3) {c : Except Code Nat} {a : Nat} (goal : Goal)
    {todo : Nat → List Instr} (s : State) (hc : c = .ok a) (hl : todo a = []) :
    EndsUntouched codeSuccess s (.next (hostChecked c goal todo (floatFstat rsv s))) := by
  rw [hc, hostChecked, hl]
  exact endsUntouched_hostReturnCode rsv codeSuccess s

/-- A call that fails its checks. -/
theorem endsUntouched_hostChecked_error (rsv : BitVec 3) {c : Except Code Nat} {e : Code} (goal : Goal)
    (todo : Nat → List Instr) (s : State) (hc : c = .error e) :
    EndsUntouched e s (.next (hostChecked c goal todo (floatFstat rsv s))) :=
  hc ▸ endsUntouched_hostReturnCode rsv e s

/-- With a source that is long enough, a call of units is one with checks. -/
theorem hostUnits_enough {c : Except Code Nat} {goal : Goal} {enough : Bool} {todo : Nat → List Instr} {s : State}
    (h : enough = true) : hostUnits c goal enough todo s = .next (hostChecked c goal todo s) := by
  cases c with
  | error e => rfl
  | ok a => exact if_pos h

/-- A call of units that issues its commands. -/
theorem issues_hostUnits (rsv : BitVec 3) {c : Except Code Nat} {a : Nat} (goal : Goal) {enough : Bool}
    {todo : Nat → List Instr} (s : State) (hc : c = .ok a) (he : enough = true) (hl : todo a ≠ []) :
    Issues goal (todo a) s (hostUnits c goal enough todo (floatFstat rsv s)) :=
  hostUnits_enough he ▸ issues_hostChecked rsv goal s hc hl

/-- A call of units with nothing to issue. -/
theorem endsUntouched_hostUnits (rsv : BitVec 3) {c : Except Code Nat} {a : Nat} (goal : Goal) {enough : Bool}
    {todo : Nat → List Instr} (s : State) (hc : c = .ok a) (he : enough = true) (hl : todo a = []) :
    EndsUntouched codeSuccess s (hostUnits c goal enough todo (floatFstat rsv s)) :=
  hostUnits_enough he ▸ endsUntouched_hostChecked rsv goal s hc hl

/-- A call that passes its capability check. -/
theorem issues_hostCapable (rsv : BitVec 3) {cap : Option Code} (goal : Goal) (i : Instr) (s : State)
    (h : cap = none) :
    Issues goal [i] s (.next (hostCapable cap (hostCommands goal [i]) (floatFstat rsv s))) :=
  h ▸ issues_hostCommands rsv goal s (List.cons_ne_nil i [])

/-- A call that fails its capability check. -/
theorem endsUntouched_hostCapable (rsv : BitVec 3) {cap : Option Code} {c : Code} (k : State → State) (s : State)
    (h : cap = some c) : EndsUntouched c s (.next (hostCapable cap k (floatFstat rsv s))) :=
  h ▸ endsUntouched_hostReturnCode rsv c s

/-! ## The drawn capability error -/

/-- No error is drawn, nor one that a derivative without D-Flash makes of a partition command. -/
theorem capError_none {cfg : Config} {p : Proc} {cap : CapDraw} (h : cap.fails = false)
    (hp : ∀ eee depart, p = .deFlashPartition eee depart → cfg.dflashPhysSize ≠ 0) :
    capError cfg p cap = none := by
  cases p with
  | deFlashPartition eee depart =>
    have hphys : cfg.dflashPhysSize ≠ 0#32 := hp eee depart rfl
    simp [capError, h, hphys]
  | _ => simp [capError, h]

/-- A capability error is one of the codes the wrapper's rule lists. -/
theorem exists_capError {cfg : Config} {p : Proc} {cap : CapDraw}
    (h : cap.fails = true ∨ ∃ eee depart, p = .deFlashPartition eee depart ∧ cfg.dflashPhysSize = 0)
    (hp : capCodes p ≠ []) : ∃ c ∈ capCodes p, capError cfg p cap = some c := by
  have hlt : cap.pick % (capCodes p).length < (capCodes p).length :=
    Nat.mod_lt _ (List.length_pos_iff.mpr hp)
  refine ⟨_, List.getElem_mem hlt, ?_⟩
  rw [← List.getElem?_eq_getElem hlt]
  refine if_pos ?_
  rcases h with h | ⟨eee, depart, rfl, h⟩ <;> simp [h]

theorem capChecked_passes {cap : Option Code} {c : Except Code Nat} {a : Nat} (hcap : cap = none) (hc : c = .ok a) :
    capChecked cap c = .ok a := by
  rw [hcap, hc]
  rfl

theorem capChecked_fails {cap : Option Code} {c : Except Code Nat} {a : Nat} {e : Code} (hcap : cap = some e)
    (hc : c = .ok a) : capChecked cap c = .error e := by
  rw [hcap, hc]
  rfl

/-! ## The wrappers -/

/-- EraseSector's call, in the sector size of its region. -/
theorem hostStart_eraseSector {dest size : Addr} {cap : CapDraw} {s : State} {u : Nat}
    (hu : wrapperSector s.cfg dest.toNat size.toNat = u) :
    hostStart (.eraseSector dest size) cap s
      = .next (hostChecked (checkRequest s.cfg .progErase u dest.toNat size.toNat) .plain
          (fun a => (List.range (size.toNat / u)).map fun k => .eraseSector (unitAddr a u k)) s) := by
  subst hu
  rfl

/-- Settles O52: a call passes its checks and issues its list, or has none to issue and succeeds; a capability check
comes last. -/
theorem wrappersExpandIntoUnits : Obligations.WrappersExpandIntoUnits := by
  intro s rsv cap dest size src margin index ctl eee depart sel count v ia a hctl call issues d n span sector
  have hcall (p : Proc) : call p = hostStart p cap (floatFstat rsv s) := stepInput_call rsv hctl
  have issued {p : Proc} {goal : Goal} {l : List Instr}
      (h : Issues goal l s (hostStart p cap (floatFstat rsv s))) : issues p goal l :=
    (congrArg (Issues goal l s) (hcall p)).mpr h
  have ended {p : Proc} {c : Code} (h : EndsUntouched c s (hostStart p cap (floatFstat rsv s))) :
      EndsUntouched c s (call p) :=
    (congrArg (EndsUntouched c s) (hcall p)).mpr h
  have hsector : wrapperSector (floatFstat rsv s).cfg dest.toNat size.toNat = sector := wrapperSector_eq s.cfg d n
  have single (i : Instr) : [i] ≠ [] := List.cons_ne_nil i []
  have aligned (hn : n = 0) (u : Nat) : n % u = 0 := by simp [hn]
  have longwords (hn : n = 0) : n / 4 ≤ src.length := by simp [hn]
  have phrases (hn : n = 0) : 2 * (n / 8) ≤ src.length := by simp [hn]
  have fits {f : BoundForm} {al m : Nat} (ht : translate s.cfg f d m = some a) (hd : d % al = 0)
      (hm : m % al = 0) : checkRequest (floatFstat rsv s).cfg f al d m = .ok a := checkRequest_ok hd hm ht
  refine ⟨fun ht => ⟨fun hd hn hpos hs => ?_, fun hd hn => ?_, fun hd hn hpos hlen => ⟨?_, ?_⟩,
    fun hd hn => ⟨?_, ?_⟩, fun hd hn hpos hlen => ?_, fun hd hn => ?_, fun hd hn => ?_⟩, fun ht hd => ?_,
    fun ht hd hn => ?_, fun ht hd hn => ⟨fun hcap => ?_, fun hcap => ?_⟩, ?_, ?_, ?_, ?_, ?_, ?_,
    fun hcap => ?_, fun hcap => ?_, fun hcap hphys => ?_, fun hcap => ?_⟩
  · refine issued (hostStart_eraseSector hsector ▸ ?_)
    exact issues_hostChecked rsv .plain s (fits ht hd hn) (map_range_units_ne_nil hn hpos hs _)
  · refine ended (hostStart_eraseSector hsector ▸ ?_)
    exact endsUntouched_hostChecked rsv .plain s (fits ht hd (aligned hn _)) (map_range_units_nil hn sector _)
  · exact issued (issues_hostUnits rsv .plain s (fits ht hd hn) (decide_eq_true hlen)
      (map_range_units_ne_nil hn hpos (by decide) _))
  · exact issued (issues_hostUnits rsv (.check dest) s (fits ht hd hn) (decide_eq_true hlen)
      (map_range_units_ne_nil hn hpos (by decide) _))
  · exact ended (endsUntouched_hostUnits rsv .plain s (fits ht hd (aligned hn _))
      (decide_eq_true (longwords hn)) (map_range_units_nil hn 4 _))
  · exact ended (endsUntouched_hostUnits rsv (.check dest) s (fits ht hd (aligned hn _))
      (decide_eq_true (longwords hn)) (map_range_units_nil hn 4 _))
  · exact issued (issues_hostUnits rsv .plain s (fits ht hd hn) (decide_eq_true hlen)
      (map_range_units_ne_nil hn hpos (by decide) _))
  · exact ended (endsUntouched_hostUnits rsv .plain s (fits ht hd (aligned hn _))
      (decide_eq_true (phrases hn)) (map_range_units_nil hn 8 _))
  · exact issued (issues_hostChecked rsv .plain s (fits ht hd hn) (single _))
  · exact issued (issues_hostChecked rsv .plain s (fits ht hd (Nat.zero_mod _)) (single _))
  · exact issued (issues_hostChecked rsv .plain s (fits ht hd hn) (single _))
  · exact issued (issues_hostChecked rsv .plain s
      (capChecked_passes (capError_none hcap (by simp)) (fits ht hd hn)) (single _))
  · obtain ⟨c, hc, herror⟩ := exists_capError (p := .programSection dest count) (.inl hcap) (by simp [capCodes])
    obtain rfl : c = 0x2000 := by simpa [capCodes, codeRAMNotReady] using hc
    exact ended (endsUntouched_hostChecked_error rsv .plain _ s (capChecked_fails herror (fits ht hd hn)))
  · exact issued (issues_hostCommands rsv .plain s (single _))
  · exact issued (issues_hostCommands rsv .plain s (single _))
  · exact issued (issues_hostCommands rsv .once s (single _))
  · exact issued (issues_hostCommands rsv .plain s (single _))
  · exact issued (issues_hostCommands rsv .resource s (single _))
  · exact issued (issues_hostCommands rsv .plain s (single _))
  · exact issued (issues_hostCapable rsv .plain _ s (capError_none hcap (by simp)))
  · obtain ⟨c, hc, herror⟩ := exists_capError (p := .setEEEEnable ctl) (.inl hcap) (by simp [capCodes])
    exact ⟨c, hc, ended (endsUntouched_hostCapable rsv _ s herror)⟩
  · exact issued (issues_hostCapable rsv .plain _ s (capError_none hcap fun _ _ _ => hphys))
  · obtain ⟨c, hc, herror⟩ := exists_capError (p := .deFlashPartition eee depart)
      (hcap.imp_right fun h => ⟨eee, depart, rfl, h⟩) (by simp [capCodes])
    exact ⟨c, hc, ended (endsUntouched_hostCapable rsv _ s herror)⟩

end Sys2Proof.Machine
end

section
/-! PROOFS. SEQ's place: what acceptance changes (40_sequencer.md R150-R152, 42_swap_fsm.md R221), and what each move can
do to SEQ; from it, that its waits have no cancellation (R166) and that every step keeps its protocol order
(R153-R157). -/

namespace Sys2Proof.Machine

/-! ## Acceptance -/

theorem swapOpen_iff {s : State} : swapOpen s = true ↔
    s.port = .host ∧ s.swp.state = .idle ∧ s.swp.halted = false ∧ s.seq.state = .idle := by
  simp [swapOpen, and_assoc]

/-- SWP accepts a SWAP of HOST, the only requester it has: HOST waits for `Done` (R220, R221). -/
def acceptSwap (addr : Addr) (s : State) : State :=
  { s with
    swp := { s.swp with addr := addr, state := .check }
    req := { s.req with call := .inFlight } }

/-- What an offered instruction does: it is left with its requester, SEQ accepts its command object, or SWP accepts
its SWAP. -/
inductive Offered (i : Instr) (s : State) : State → Prop
  | left : Offered i s s
  | execute (k : CommandObject) (hi : commandObject s.cfg i = some k) (hp : portOpen s = true) :
      Offered i s (acceptExecute k.n k.p s)
  | swap (addr : Addr) (hi : i = .swap addr) (ho : swapOpen s = true) : Offered i s (acceptSwap addr s)

theorem exec_swap_open {addr : Addr} {s : State} (h : swapOpen s = true) :
    exec (.swap addr) s = .next (acceptSwap addr s) := by
  obtain ⟨hport, -⟩ := swapOpen_iff.mp h
  simp [exec, execSwap, h, awaitDone, hport, acceptSwap]

theorem exec_offered {i : Instr} {s t : State} (h : exec i s = .next t) : Offered i s t := by
  cases hk : commandObject s.cfg i with
  | some k =>
    rw [exec_of_commandObject hk] at h
    obtain ⟨hp, e⟩ | ⟨-, e⟩ := offerObject_cases k s <;> rw [e] at h <;> cases h
    · exact .execute k hk hp
    · exact .left
  | none =>
    cases i <;> simp only [commandObject, reduceCtorEq] at hk
    case execute n p =>
      split at hk
      · cases hk
      · simp_all [exec, execExecute]
    case swap addr =>
      cases ho : swapOpen s
      · simp only [exec, execSwap, ho, Bool.false_eq_true, if_false] at h
        cases h
        exact .left
      · rw [exec_swap_open ho] at h
        cases h
        exact .swap addr rfl ho

/-- Settles O14: SEQ's port and SWP are closed then, and an offer that finds them closed does nothing. -/
theorem busyPortAcceptsNothing : Obligations.BusyPortAcceptsNothing := by
  refine ⟨fun s i hswap hcount hbusy => ?_, fun s addr hbusy => ?_⟩
  · obtain ⟨k, hk⟩ := exists_commandObject s.cfg hswap hcount
    obtain ⟨hopen, -⟩ | ⟨-, e⟩ := offerObject_cases k s
    · obtain ⟨hidle, hhalt, hport⟩ := portOpen_iff.mp hopen
      simp_all
    · exact (exec_of_commandObject hk).trans e
  · obtain ⟨hopen, -⟩ | ⟨-, e⟩ := execSwap_cases addr s
    · obtain ⟨-, hswp, -, hseq⟩ := swapOpen_iff.mp hopen
      simp_all
    · exact e

/-- Settles O15: the frame of an acceptance by SEQ, and of one by SWP. -/
theorem acceptanceFrame : Obligations.AcceptanceFrame := by
  intro i s t h
  obtain ⟨hwin, hnvm, hcfg, -, -⟩ := passive_exec h
  refine ⟨fun r => by cases r <;> simp only [readReg, hwin], fun x => by rw [hnvm], hwin, hnvm, hcfg, ?_⟩
  cases exec_offered h with
  | left => exact ⟨rfl, rfl, rfl, rfl, rfl, rfl, fun _ => ⟨rfl, rfl⟩, fun _ => rfl⟩
  | execute k hi hp =>
    obtain ⟨hreq, hswp⟩ := acceptExecute_keepsRequesters k.n k.p s
    refine ⟨by simp, by simp, by simp, by simp, by simp, hreq, ?_, fun _ => hswp⟩
    rintro ⟨addr, rfl⟩
    cases hi
  | swap addr hi ho =>
    exact ⟨rfl, rfl, rfl, rfl, rfl, rfl, fun _ => ⟨rfl, rfl⟩, fun hne => absurd hi (hne addr)⟩

/-! ## SWP's step -/

/-- The codes SWP finishes with of its own (R220, R222). -/
def swpCodes : List Code := [codeSuccess, codeRange]

/-- What a step of SWP can do: nothing; offer a command object at SEQ's port; go to another state, in a phase; read
FCCOB5, and go on from the read-back; or finish, with a code of its own or the one SEQ has answered. -/
inductive SwpEffect (s t : State) : Prop
  | quiet (ht : t = s)
  | offer (k : CommandObject) (h : offerObject k { s with port := .swp } = .next t)
  | goto (st : SwpState) (p : BitVec 2) (ht : t = swpGoto st { s with swp := { s.swp with phase := p } })
  | read (ht : t = swpReadMode s)
  | readBack (st : SwpState) (ht : t = swpGoto st (swpReadMode s))
  | finish (v : Code) (hv : v ∈ swpCodes ∨ s.swp.call = .done v) (ht : t = swpFinish v s)

theorem swpCommand_effect {k : State → CommandObject} {next : SwpState} {s t : State}
    (h : swpCommand (fun u => offerObject (k u) u) next s = .next t) : SwpEffect s t := by
  obtain ⟨-, e⟩ | ⟨-, e⟩ | ⟨-, e⟩ | ⟨r, -, hr, e⟩ :=
    swpCommand_cases (fun u => offerObject (k u) u) next s <;> rw [e] at h
  · exact .offer _ h
  · cases h; exact .quiet rfl
  · cases h; exact .goto next s.swp.phase rfl
  · cases h; exact .finish r (.inr hr) rfl

theorem swpWait_effect {leave : Bool} {s t : State} (h : swpWait leave s = .next t) : SwpEffect s t := by
  unfold swpWait at h
  (repeat' split at h)
  · cases h; exact .goto .dispatch s.swp.phase rfl
  · cases h; exact .read rfl
  · cases h; exact .goto .dispatch s.swp.phase rfl
  · exact swpCommand_effect h

theorem swpCheck_effect (s : State) : SwpEffect s (swpCheck s) := by
  unfold swpCheck
  split
  · exact .goto .query 0 rfl
  · exact .finish codeRange (.inl (by decide)) rfl

theorem swpDispatch_effect (s : State) : SwpEffect s (swpDispatch s) := by
  unfold swpDispatch
  simp only
  (repeat' split)
  · exact .goto .setInd 1 rfl
  · exact .goto .setPrep 2 rfl
  · exact .goto .erase 3 rfl
  · exact .goto .setComp 3 rfl
  · exact .finish codeSuccess (.inl (by decide)) rfl

theorem swpStep_cases {s t : State} (h : swpStep s = .next t) : SwpEffect s t := by
  unfold swpStep at h
  split at h
  · cases h; exact .quiet rfl
  · cases hs : s.swp.state <;> simp only [hs] at h
    case idle => cases h; exact .quiet rfl
    case check => cases h; exact swpCheck_effect s
    case readMode => cases h; exact .readBack _ rfl
    case dispatch => cases h; exact swpDispatch_effect s
    case waitUninit => exact swpWait_effect h
    case waitReady => exact swpWait_effect h
    case waitComp => exact swpWait_effect h
    all_goals exact swpCommand_effect h

theorem swpStep_halted {s t : State} (hh : s.swp.halted = true) (h : swpStep s = .next t) : t = s := by
  simp only [swpStep, hh, if_true] at h
  cases h
  rfl

/-- The end of a SWAP leaves SEQ as it is. -/
theorem swpFinish_seq (v : Code) (s : State) : (swpFinish v s).seq = s.seq := by
  simp [swpFinish, endOperation_seq, show (Fsm.swp == Fsm.seq) = false from rfl]

/-! ## What a move can do to SEQ -/

/-- SEQ after the request of `(n, p)` by the owner `o` (R150 IDLE). -/
def Seq.accepted (q : Seq) (n : Slot) (p : Slots) (o : Owner) : Seq :=
  { q with n := n, buf := p, owner := o, state := .waitReady }

/-- What one move can do to SEQ: nothing; the acceptance of a request; the callback's return; DebugResume; SEQ's own
step; or a reset of the quiet block. -/
inductive SeqChange (m : Move) (s t : State) : Prop
  | kept (h : t.seq = s.seq)
  | accepted (n : Slot) (p : Slots) (o : Owner) (hidle : s.seq.state = .idle) (hhalt : s.seq.halted = false)
      (h : t.seq = s.seq.accepted n p o)
  | returned (hm : m = .cb .ret) (hs : s.seq.state = .cbWait) (h : t.seq = { s.seq with state := .poll })
  | resumed (hm : m = .debugResume .seq) (h : t.seq = { s.seq with halted := false })
  | stepped (hm : m = .seq) (h : t = seqStep s)
  | reset (l : Launch) (hm : m = .reset l) (hs : s.seq.state = .idle) (h : t.seq.state = .idle)

theorem State.quiet_seq {s : State} (h : s.quiet = true) : s.seq.state = .idle := by
  simp only [State.quiet, Bool.and_eq_true, beq_iff_eq] at h
  obtain ⟨⟨hidle, -⟩, -⟩ := h
  exact hidle

theorem SeqChange.of_seq_eq {m : Move} {s u t : State} (h : SeqChange m u t) (hu : u.seq = s.seq)
    (hm : m ≠ .seq) : SeqChange m s t := by
  cases h with
  | kept h => exact .kept (h.trans hu)
  | accepted n p o hidle hhalt h => exact .accepted n p o (hu ▸ hidle) (hu ▸ hhalt) (hu ▸ h)
  | returned hm hs h => exact .returned hm (hu ▸ hs) (hu ▸ h)
  | resumed hm h => exact .resumed hm (hu ▸ h)
  | stepped h _ => exact absurd h hm
  | reset l hm hs h => exact .reset l hm (hu ▸ hs) h

theorem acceptExecute_seqChange (m : Move) (k : CommandObject) {s : State} (hp : portOpen s = true) :
    SeqChange m s (acceptExecute k.n k.p s) := by
  obtain ⟨hidle, hhalt, -⟩ := portOpen_iff.mp hp
  exact .accepted k.n k.p s.port hidle hhalt (acceptExecute_seq k.n k.p s)

theorem exec_seqChange (m : Move) {i : Instr} {s t : State} (h : exec i s = .next t) : SeqChange m s t := by
  cases exec_offered h with
  | left => exact .kept rfl
  | execute k _ hp => exact acceptExecute_seqChange m k hp
  | swap addr _ _ => exact .kept rfl

theorem swpStep_seqChange {s t : State} (h : swpStep s = .next t) : SeqChange .swp s t := by
  cases swpStep_cases h with
  | quiet ht => exact .kept (ht ▸ rfl)
  | offer k h =>
    obtain ⟨hp, e⟩ | ⟨-, e⟩ := offerObject_cases k { s with port := .swp } <;> rw [e] at h <;> cases h
    · exact (acceptExecute_seqChange .swp k hp).of_seq_eq rfl (by simp)
    · exact .kept rfl
  | goto st p ht => exact .kept (ht ▸ rfl)
  | read ht => exact .kept (ht ▸ rfl)
  | readBack st ht => exact .kept (ht ▸ rfl)
  | finish v _ ht => exact .kept (ht ▸ swpFinish_seq v s)

theorem hostStep_seqChange {q : ReqMove} {s t : State} (h : hostStep q s = .next t) :
    SeqChange (.host q) s t := by
  cases hostStep_fsms h with
  | kept h => exact .kept h.seq
  | offer i hu h => exact (exec_seqChange (.host q) h).of_seq_eq hu.seq (by simp)

theorem cbStep_seqChange {c : CbMove} {s t : State} (h : cbStep c s = .next t) : SeqChange (.cb c) s t := by
  by_cases hc : s.seq.state = .cbWait
  · obtain ⟨rfl, rfl⟩ | ⟨addr, -, -, ha⟩ := cbStep_next hc h
    · exact .returned rfl hc rfl
    · exact .kept (arrayRead_keepsFsms ha).seq
  · simp only [cbStep, beq_iff_eq, hc, if_false] at h
    cases h
    exact .kept rfl

theorem resumeFsm_seqChange (f : Fsm) (s : State) : SeqChange (.debugResume f) s (resumeFsm f s) := by
  cases f <;> unfold resumeFsm <;> simp only <;> split
  · exact .resumed rfl rfl
  · exact .kept rfl
  · exact .kept rfl
  · exact .kept rfl

theorem moveStep_seqChange {m : Move} {s t : State} (h : moveStep m s = .next t) : SeqChange m s t := by
  cases m with
  | seq => cases h; exact .stepped rfl rfl
  | swp => exact swpStep_seqChange h
  | nvm o => cases h; exact .kept (nvmStep_seq o s)
  | cb c => exact cbStep_seqChange h
  | host q => exact hostStep_seqChange h
  | debugResume f => cases h; exact resumeFsm_seqChange f s
  | reset l =>
    obtain ⟨hq, rfl⟩ := resetStep_next h
    exact .reset l rfl (State.quiet_seq hq) rfl
  | lowPower =>
    obtain rfl := lowPowerStep_next h
    exact .kept rfl

/-! ## The waits have no cancellation -/

/-- Where SEQ's own step leads from one of its waits (R153, R158, R162). -/
theorem seqStep_of_wait {s : State} (hne : (seqStep s).seq.state ≠ s.seq.state) :
    (s.seq.state = .waitReady → s.ccif = true ∧ (seqStep s).seq.state = .clearErr) ∧
    (s.seq.state = .poll → (s.ccif = true ∧ (seqStep s).seq.state = .decode) ∨
      (s.ccif = false ∧ s.cfg.callback = true ∧ (seqStep s).seq.state = .cbWait)) ∧
    s.seq.state ≠ .cbWait := by
  cases hh : s.seq.halted
  · refine ⟨fun hs => ?_, fun hs => ?_, fun hs => hne (by simp [seqStep, hh, hs])⟩
    · rw [seqStep_waitReady hs hh, seqWaitReady] at hne ⊢
      cases hc : s.ccif <;> simp_all
    · rw [seqStep_poll hs hh, seqPoll] at hne ⊢
      cases hc : s.ccif <;> cases hcb : s.cfg.callback <;> simp_all
  · exact absurd (by simp [seqStep, hh]) hne

/-- Settles O18: of what a move can do to SEQ, only its own step and the callback's return leave a wait. -/
theorem waitsHaveNoCancellation : Obligations.WaitsHaveNoCancellation := by
  intro i s t h hne
  cases moveStep_seqChange h with
  | kept h => exact absurd (congrArg Seq.state h) hne
  | accepted n p o hidle =>
    have hidle : s.seq.state = .idle := hidle
    simp [hidle]
  | returned hm hs h =>
    have hs : s.seq.state = .cbWait := hs
    exact ⟨by simp [hs], by simp [hs], fun _ => ⟨hm, by rw [h]⟩⟩
  | resumed _ h => exact absurd (congrArg Seq.state h) hne
  | stepped hm h =>
    subst h
    obtain ⟨hwait, hpoll, hcb⟩ := seqStep_of_wait hne
    rw [State.ccif_floatFstat] at hwait hpoll
    exact ⟨fun hs => ⟨hm, hwait hs⟩, fun hs => ⟨hm, hpoll hs⟩, fun hs => absurd hs hcb⟩
  | reset l _ hs =>
    have hs : s.seq.state = .idle := hs
    simp [hs]

/-! ## The protocol order -/

/-- While SEQ serves a command, only SEQ and the controller change the registers (R164). -/
theorem moveStep_sameRegisters {m : Move} {s t : State} (hm : m ≠ .seq) (hn : ∀ o, m ≠ .nvm o)
    (h : moveStep m s = .next t) : s.seq.state = .idle ∨ SameRegisters s t := by
  cases m with
  | seq => exact absurd rfl hm
  | swp => exact .inr ((swpStep_effect h).elim (·.sameRegisters) (·.sameRegisters))
  | nvm o => exact absurd rfl (hn o)
  | cb c => exact .inr (cbStep_effect h).sameRegisters
  | host q =>
    cases hostStep_effect h with
    | passive _ h => exact .inr h.sameRegisters
    | write hw _ _ =>
      obtain ⟨hserving, -⟩ := hostWrite_next hw
      simp only [State.serving, Bool.or_eq_false_iff, bne_eq_false_iff_eq] at hserving
      obtain ⟨hidle, -⟩ := hserving
      exact .inl hidle
    | sizes _ _ _ hp hs =>
      obtain ⟨rfl, -, -⟩ := initStore_next hs
      exact .inr hp.sameRegisters
  | debugResume f => cases h; exact .inr (resumeFsm_effect f s).sameRegisters
  | reset l =>
    obtain ⟨hq, -⟩ := resetStep_next h
    exact .inl (State.quiet_seq hq)
  | lowPower =>
    obtain rfl := lowPowerStep_next h
    exact .inr ⟨rfl, rfl⟩

/-- The protocol order is a fact about SEQ's state, request and slot count, FSTAT, FCCOB and the command. -/
theorem SeqInv.of_same {s t : State} (hs : SeqInv s) (hstate : t.seq.state = s.seq.state)
    (hn : t.seq.n = s.seq.n) (hbuf : t.seq.buf = s.seq.buf) (hk : t.seq.k = s.seq.k) (hr : SameRegisters s t) :
    SeqInv t := by
  obtain ⟨hw, hv⟩ := hr
  simpa only [SeqInv, State.ccif, hstate, hn, hbuf, hk, hw, hv] using hs

theorem SeqInv.of_idle {s : State} (h : s.seq.state = .idle) : SeqInv s := by
  simp [SeqInv, h]

theorem SeqInv.of_waitReady {s : State} (h : s.seq.state = .waitReady) : SeqInv s := by
  simp [SeqInv, h]

theorem floatFstat_seqInv (rsv : BitVec 3) {s : State} (hs : SeqInv s) : SeqInv (floatFstat rsv s) := by
  unfold SeqInv at hs ⊢
  cases hst : s.seq.state <;> simp_all

/-- The slots written so far and slot `k`, which LOAD writes, are the slots up to `k`. -/
theorem loaded_set {v p : Slots} {k : Slot} (h : ∀ i : Slot, i.val < k.val → v.get i = p.get i) (i : Slot)
    (hi : i.val ≤ k.val) : (v.set k (p.get k)).get i = p.get i := by
  rw [get_set_slot]
  by_cases hik : i = k
  · simp [hik]
  · rw [if_neg hik]
    exact h i (by have := mt Fin.ext hik; omega)

/-- CLEAR_ERR's write launches nothing. -/
theorem writeFstat_clear (who : Agent) (s : State) : writeFstat who 0x70 s = { logWrite who .fstat 0x70 s with
    win := { s.win with fstat := clearErrors s.win.fstat 0x70 } } := by
  simp only [writeFstat, storeFstat, launches_clear, Bool.false_eq_true, if_false]
  rfl

/-- LAUNCH's write on clear error flags is a launch. -/
theorem writeFstat_launch (who : Agent) {s : State} (hc : s.ccif = true) (hacc : accerr s.win.fstat = false)
    (hfp : fpviol s.win.fstat = false) :
    writeFstat who 0x80 s = launchCommand s.win.fstat (logWrite who .fstat 0x80 s) := by
  have hc : ccif s.win.fstat = true := hc
  simp only [writeFstat, storeFstat, logWrite_win, clearErrors_launch, launches_launch, hc, hacc, hfp,
    Bool.not_false, Bool.and_self, if_true]

theorem seqClearErr_seqInv {s : State} (hc : s.ccif = true) : SeqInv (seqClearErr s) := by
  obtain ⟨hrd, hacc, hfp⟩ := clearErrors_clears s.win.fstat
  rw [seqClearErr, writeFstat_clear]
  exact ⟨(ccif_clearErrors_clear _).trans hc, hrd, hacc, hfp, Nat.zero_le _, fun i hi => absurd hi (Nat.not_lt_zero _)⟩

theorem seqLoad_seqInv {s : State} (hst : s.seq.state = .load) (hs : SeqInv s) : SeqInv (seqLoad s) := by
  simp only [SeqInv, hst] at hs
  obtain ⟨hc, hrd, hacc, hfp, hk, hslots⟩ := hs
  have hset := loaded_set hslots
  have hw : writeFccob .seq s.seq.k (s.seq.buf.get s.seq.k) s
      = { logWrite .seq (.fccob s.seq.k) (s.seq.buf.get s.seq.k) s with
          win := { s.win with fccob := s.win.fccob.set s.seq.k (s.seq.buf.get s.seq.k) } } :=
    if_pos hc
  unfold seqLoad
  rw [hw]
  split
  · exact ⟨hc, hrd, hacc, hfp, by simp; omega, fun i hi => hset i (by simp at hi; omega)⟩
  · exact ⟨hc, hrd, hacc, hfp, fun i hi => hset i (by simp at hi; omega)⟩

theorem seqLaunch_seqInv {s : State} (hst : s.seq.state = .launch) (hs : SeqInv s) : SeqInv (seqLaunch s) := by
  simp only [SeqInv, hst] at hs
  obtain ⟨hc, -, hacc, hfp, hslots⟩ := hs
  rw [seqLaunch, writeFstat_launch .seq hc hacc hfp]
  exact hslots

theorem seqStep_seqInv {s : State} (hs : SeqInv s) : SeqInv (seqStep s) := by
  unfold seqStep
  split
  · exact hs
  · cases hst : s.seq.state <;> simp only
    case idle => exact hs
    case waitReady =>
      unfold seqWaitReady
      simp only
      split
      · assumption
      · exact .of_waitReady hst
    case clearErr => exact seqClearErr_seqInv (by simpa only [SeqInv, hst] using hs)
    case load => exact seqLoad_seqInv hst hs
    case launch => exact seqLaunch_seqInv hst hs
    case poll =>
      have hcmd : ∀ i : Slot, i.val ≤ s.seq.n.val → s.nvm.cmd.get i = s.seq.buf.get i := by
        simpa only [SeqInv, hst] using hs
      unfold seqPoll
      simp only
      (repeat' split)
      · exact ⟨by assumption, hcmd⟩
      · exact hcmd
      · exact hs.of_same rfl rfl rfl rfl ⟨rfl, rfl⟩
    case cbWait => exact hs
    case decode => exact .of_idle (by simp [seqDecode, endOperation_seq])

/-- A completion finds CCIF = 0, so SEQ between WAIT_READY's end and the launch, or past POLL, sees none; elsewhere it
leaves what the order speaks of. -/
theorem nvmStep_seqInv (o : NvmOutcome) {s : State} (hc : CcifInv s) (hs : SeqInv s) : SeqInv (nvmStep o s) := by
  cases hb : s.nvm.busy
  · rw [nvmStep_idle o hb]
    exact hs
  · rw [nvmStep_busy o hb]
    have hc : s.ccif = false := by rw [hc, hb]; rfl
    unfold SeqInv at hs ⊢
    cases hst : s.seq.state <;> simp_all [completedNvm]

theorem moveStep_seqInv {m : Move} {s t : State} (hc : CcifInv s) (hs : SeqInv s) (h : moveStep m s = .next t) :
    SeqInv t := by
  by_cases hn : ∃ o, m = .nvm o
  · obtain ⟨o, rfl⟩ := hn
    cases h
    exact nvmStep_seqInv o hc hs
  have same (hm : m ≠ .seq) : s.seq.state = .idle ∨ SameRegisters s t :=
    moveStep_sameRegisters hm (by simpa using hn) h
  cases moveStep_seqChange h with
  | kept he =>
    by_cases hm : m = .seq
    · subst hm
      cases h
      exact seqStep_seqInv hs
    · obtain hidle | hr := same hm
      · exact .of_idle (by rw [he, hidle])
      · exact hs.of_same (by rw [he]) (by rw [he]) (by rw [he]) (by rw [he]) hr
  | accepted n p o _ _ he => exact .of_waitReady (by rw [he]; rfl)
  | returned hm hst he =>
    obtain hidle | ⟨-, hv⟩ := same (by simp [hm])
    · simp [hidle] at hst
    · simp only [SeqInv, hst] at hs
      simpa only [SeqInv, he, hv] using hs
  | resumed hm he =>
    obtain hidle | hr := same (by simp [hm])
    · exact .of_idle (by rw [he]; exact hidle)
    · exact hs.of_same (by rw [he]) (by rw [he]) (by rw [he]) (by rw [he]) hr
  | stepped _ ht => exact ht ▸ seqStep_seqInv hs
  | reset l _ _ he => exact .of_idle he

/-- Settles O38: SEQ's own steps follow the order, and while SEQ serves a command no other agent but the controller
touches what it speaks of. -/
theorem stepKeepsSeqInv : Obligations.StepKeepsSeqInv := fun s t hc hs h =>
  (step_keeps (P := fun s => CcifInv s ∧ SeqInv s)
    (fun s ⟨hc, hs⟩ => ⟨by simpa [CcifInv, State.ccif] using hc,
      hs.of_same (by simp) (by simp) (by simp) (by simp) ⟨by simp, by simp⟩⟩)
    (fun rsv s ⟨hc, hs⟩ => ⟨by simpa [CcifInv] using hc, floatFstat_seqInv rsv hs⟩)
    (fun _ _ _ ⟨hc, hs⟩ h => ⟨moveStep_ccifInv hc h, moveStep_seqInv hc hs h⟩) ⟨hc, hs⟩ h).2

end Sys2Proof.Machine
end

section
/-! PROOFS. The result codes: where each step's answers, reported codes and events come from (40_sequencer.md R161,
R174, 42_swap_fsm.md R220, R233, 43_requester_interface.md R271, 60_exceptions.md R302), and the debug breaks (R320). -/

namespace Sys2Proof.Machine

/-! ## Events added to the history -/

/-- From `s` to `t` only events that meet `P` are added to the history. -/
def Adds (P : Event → Prop) (s t : State) : Prop := ∃ h, t.history = h ++ s.history ∧ ∀ e ∈ h, P e

theorem Adds.of_same {P : Event → Prop} {s t : State} (h : t.history = s.history) : Adds P s t :=
  ⟨[], h, by simp⟩

theorem Adds.of_cons {P : Event → Prop} {s t : State} {e : Event} (h : t.history = e :: s.history) (he : P e) :
    Adds P s t :=
  ⟨[e], h, by simpa using he⟩

theorem Adds.trans {P : Event → Prop} {s t u : State} (h : Adds P s t) (h' : Adds P t u) : Adds P s u := by
  obtain ⟨l, hl, hp⟩ := h
  obtain ⟨l', hl', hp'⟩ := h'
  refine ⟨l' ++ l, by rw [hl', hl, List.append_assoc], fun e he => ?_⟩
  exact (List.mem_append.mp he).elim (hp' e) (hp e)

theorem Adds.mono {P Q : Event → Prop} {s t : State} (h : Adds P s t) (hpq : ∀ e, P e → Q e) : Adds Q s t := by
  obtain ⟨l, hl, hp⟩ := h
  exact ⟨l, hl, fun e he => hpq e (hp e he)⟩

theorem Adds.mem {P : Event → Prop} {s t : State} (h : Adds P s t) {e : Event} (he : e ∈ t.history) :
    e ∈ s.history ∨ P e := by
  obtain ⟨l, hl, hp⟩ := h
  rw [hl] at he
  exact (List.mem_append.mp he).symm.imp_right (hp e)

/-! ## HOST -/

/-- The codes HOST's procedures report of their own (R261, R262, R278, R205, R206, 93 I27). -/
def hostCodes : List Code :=
  [codeSuccess, codeSizeAlignment, codeRange, codeChangeProtection, codeEEPROMSize, codeEFlashSize,
   codeAddressAlignment, codeNoEEPROM, codeEFlashOnly, codeDFlashOnly, codeRAMNotReady]

/-- A code HOST may report from `s`: one of its own, the answer to its request, or the one it keeps during a
read-back (R268, R271). -/
def HostCode (s : State) (c : Code) : Prop :=
  c ∈ hostCodes ∨ s.req.call = .done c ∨ ∃ g a todo got, s.req.ctl = .readBack g c a todo got

/-- The events HOST may add from `s`: its accesses, and the return of a code it may report. -/
def HostEvent (s : State) : Event → Prop
  | .regRead _ _ _ _ | .regWrite _ _ _ _ | .arrayRead _ _ => True
  | .returned r => HostCode s r.code
  | .callbackInvoke | .callbackReturn | .done _ _ _ | .debugBreak _ | .debugResume _ => False

/-- A control state of HOST keeps no code but one that it may report from `s`. -/
def KeepsCode (s : State) (c : ReqCtl) : Prop :=
  ∀ g r a todo got, c = .readBack g r a todo got → HostCode s r

theorem keepsCode_self (s : State) : KeepsCode s s.req.ctl :=
  fun _ _ _ _ _ h => .inr (.inr ⟨_, _, _, _, h⟩)

/-- What a step of HOST does with codes: it takes no answer but the one it had, and keeps and returns only codes that
it may report. -/
structure HostReport (s t : State) : Prop where
  call   : ∀ r, t.req.call = .done r → s.req.call = .done r
  ctl    : KeepsCode s t.req.ctl
  events : Adds (HostEvent s) s t

theorem HostReport.of_same_req {s t : State} (hreq : t.req = s.req) (h : Adds (HostEvent s) s t) :
    HostReport s t :=
  ⟨by simp [hreq], by rw [hreq]; exact keepsCode_self s, h⟩

theorem HostReport.refl (s : State) : HostReport s s := .of_same_req rfl (.of_same rfl)

/-- What HOST may report after a step, it might report before it. -/
theorem HostReport.code {s t : State} (h : HostReport s t) {c : Code} (hc : HostCode t c) : HostCode s c := by
  obtain hown | hcall | ⟨g, a, todo, got, hctl⟩ := hc
  · exact .inl hown
  · exact .inr (.inl (h.call c hcall))
  · exact h.ctl g c a todo got hctl

theorem HostReport.trans {s t u : State} (h : HostReport s t) (h' : HostReport t u) : HostReport s u := by
  refine ⟨fun r hr => h.call r (h'.call r hr), fun g r a todo got hr => h.code (h'.ctl g r a todo got hr),
    h.events.trans (h'.events.mono fun e he => ?_)⟩
  cases e with
  | returned r => exact h.code he
  | _ => exact he

theorem logRead_report (r : Reg) (s : State) : HostReport s (logRead .host r s) :=
  .of_same_req rfl (.of_cons rfl trivial)

theorem hostGoto_report {c : ReqCtl} {s : State} (hc : KeepsCode s c) : HostReport s (hostGoto c s) :=
  ⟨nofun, hc, .of_same rfl⟩

theorem hostReturn_report {r : ProcResult} {s : State} (hr : HostCode s r.code) : HostReport s (hostReturn r s) :=
  ⟨nofun, nofun, .of_cons rfl hr⟩

theorem hostReturnCode_report {c : Code} {s : State} (hc : HostCode s c) : HostReport s (hostReturnCode c s) :=
  hostReturn_report hc

theorem hostCode_success (s : State) : HostCode s codeSuccess := .inl (by simp [hostCodes])

theorem hostCommands_report (goal : Goal) (todo : List Instr) (s : State) :
    HostReport s (hostCommands goal todo s) := by
  cases todo with
  | nil => exact hostReturnCode_report (hostCode_success s)
  | cons i t => exact hostGoto_report nofun

/-- A check of a wrapper fails with a code of HOST's own. -/
def FailsWithOwnCode (c : Except Code Nat) : Prop := ∀ e, c = .error e → e ∈ hostCodes

theorem alignError_ownCode {al dest size : Nat} {e : Code} (h : alignError al dest size = some e) :
    e ∈ hostCodes := by
  unfold alignError at h
  (repeat' split at h) <;> cases h
  · decide
  · decide

theorem checkRequest_ownCode (cfg : Config) (f : BoundForm) (al dest size : Nat) :
    FailsWithOwnCode (checkRequest cfg f al dest size) := by
  intro e h
  unfold checkRequest at h
  split at h
  · rename_i he
    cases h
    exact alignError_ownCode he
  · split at h <;> cases h
    decide

theorem capCodes_subset (p : Proc) : capCodes p ⊆ hostCodes := by
  cases p with
  | deFlashPartition _ _ => simp [capCodes, hostCodes]
  | setEEEEnable _ => simp [capCodes, hostCodes]
  | programSection _ _ => simp [capCodes, hostCodes]
  | _ => exact List.nil_subset _

theorem capError_ownCode {cfg : Config} {p : Proc} {cap : CapDraw} {c : Code} (h : capError cfg p cap = some c) :
    c ∈ hostCodes := by
  simp only [capError, Option.ite_none_right_eq_some] at h
  obtain ⟨-, h⟩ := h
  exact capCodes_subset p (List.mem_of_getElem? h)

theorem capChecked_ownCode {cfg : Config} {p : Proc} {cap : CapDraw} {c : Except Code Nat}
    (hc : FailsWithOwnCode c) : FailsWithOwnCode (capChecked (capError cfg p cap) c) := by
  intro e h
  unfold capChecked at h
  split at h
  · cases h; exact hc _ rfl
  · rename_i hcap
    cases h
    exact capError_ownCode hcap
  · cases h

theorem hostChecked_report {c : Except Code Nat} (hc : FailsWithOwnCode c) (goal : Goal) (todo : Nat → List Instr)
    (s : State) : HostReport s (hostChecked c goal todo s) := by
  cases c with
  | error e => exact hostReturnCode_report (.inl (hc e rfl))
  | ok a => exact hostCommands_report goal _ s

theorem hostUnits_report {c : Except Code Nat} (hc : FailsWithOwnCode c) {goal : Goal} {enough : Bool}
    {todo : Nat → List Instr} {s t : State} (h : hostUnits c goal enough todo s = .next t) : HostReport s t := by
  cases c with
  | error e => cases h; exact hostReturnCode_report (.inl (hc e rfl))
  | ok a =>
    simp only [hostUnits] at h
    split at h <;> cases h
    exact hostCommands_report goal _ s

theorem hostCapable_report {p : Proc} {cap : CapDraw} {k : State → State} {s : State}
    (hk : HostReport s (k s)) : HostReport s (hostCapable (capError s.cfg p cap) k s) := by
  cases h : capError s.cfg p cap with
  | some c => exact hostReturnCode_report (.inl (capError_ownCode h))
  | none => exact hk

/-- An offered instruction makes its requester wait, or nothing. -/
theorem exec_report {i : Instr} {s t : State} (h : exec i s = .next t) : HostReport s t := by
  cases exec_offered h with
  | left => exact .refl s
  | execute k _ _ =>
    unfold acceptExecute awaitDone
    split
    · exact ⟨nofun, keepsCode_self s, .of_same rfl⟩
    · exact .of_same_req rfl (.of_same rfl)
  | swap addr _ _ => exact ⟨nofun, keepsCode_self s, .of_same rfl⟩

theorem hostOffer_report {i : Instr} {s t : State} (h : hostOffer i s = .next t) : HostReport s t :=
  HostReport.trans (t := { s with port := .host }) (.of_same_req rfl (.of_same rfl)) (exec_report h)

theorem hostStart_report {p : Proc} {cap : CapDraw} {s t : State} (h : hostStart p cap s = .next t) :
    HostReport s t := by
  have checked {f : BoundForm} {al dest size : Nat} := checkRequest_ownCode s.cfg f al dest size
  cases p <;> simp only [hostStart, reduceCtorEq, Host.Outcome.next.injEq] at h
  case request r =>
    unfold hostRequest at h
    split at h
    · cases h
    · exact (hostGoto_report (c := .commands .plain 0 [_]) nofun).trans (hostOffer_report h)
  case programLongword => exact hostUnits_report checked h
  case programPhrase => exact hostUnits_report checked h
  case programCheck => exact hostUnits_report checked h
  case deFlashPartition => exact h ▸ hostCapable_report (hostCommands_report _ _ s)
  case setEEEEnable => exact h ▸ hostCapable_report (hostCommands_report _ _ s)
  case eraseSector => exact h ▸ hostChecked_report checked _ _ s
  case eraseBlock => exact h ▸ hostChecked_report checked _ _ s
  case verifyBlock => exact h ▸ hostChecked_report checked _ _ s
  case verifySection => exact h ▸ hostChecked_report checked _ _ s
  case programSection => exact h ▸ hostChecked_report (capChecked_ownCode checked) _ _ s
  case verifyAllBlock => exact h ▸ hostCommands_report _ _ s
  case eraseAllBlock => exact h ▸ hostCommands_report _ _ s
  case readOnce => exact h ▸ hostCommands_report _ _ s
  case programOnce => exact h ▸ hostCommands_report _ _ s
  case readResource => exact h ▸ hostCommands_report _ _ s
  case pflashSwap => exact h ▸ hostCommands_report _ _ s
  all_goals cases h; exact hostGoto_report nofun

theorem hostCommandsEnd_report (goal : Goal) (s : State) : HostReport s (hostCommandsEnd goal s) := by
  have readBack {goal : Goal} {todo : List Slot} :
      HostReport s (hostGoto (.readBack goal codeSuccess none todo []) s) :=
    hostGoto_report fun g r a todo got h => by cases h; exact hostCode_success s
  cases goal
  case plain => exact hostReturnCode_report (hostCode_success s)
  case check => exact hostReturnCode_report (hostCode_success s)
  all_goals exact readBack

theorem hostFailed_report (goal : Goal) (k : Nat) {r : Code} {s : State} (hr : s.req.call = .done r) :
    HostReport s (hostFailed goal k r s) := by
  have hcode : HostCode s r := .inr (.inl hr)
  cases goal
  case check => exact hostGoto_report fun g r' a todo got h => by cases h; exact hcode
  all_goals exact hostReturnCode_report hcode

theorem hostCommandStep_report {goal : Goal} {k : Nat} {todo : List Instr} {s t : State}
    (h : hostCommandStep goal k todo s = .next t) : HostReport s t := by
  cases todo with
  | nil => cases h; exact hostCommandsEnd_report goal s
  | cons i todo =>
    cases hcall : s.req.call <;> simp only [hostCommandStep, hcall] at h
    case none => exact hostOffer_report h
    case inFlight => cases h; exact .refl s
    case done r =>
      (repeat' split at h) <;> cases h
      · exact hostCommandsEnd_report goal s
      · exact hostGoto_report nofun
      · exact hostFailed_report goal k hcall

theorem initStore_report {code : Code} {dflash eee : Addr} {s t : State} (hc : HostCode s code)
    (h : initStore code dflash eee s = .next t) : HostReport s t := by
  obtain ⟨rfl, -, -⟩ := initStore_next h
  exact ⟨nofun, nofun, .of_cons rfl hc⟩

theorem hostWrite_report {r : Reg} {v : Byte} {s t : State} (h : hostWrite r v s = .next t) : HostReport s t := by
  obtain ⟨-, -, -, hreq⟩ := hostWrite_keepsHidden h
  exact .of_same_req hreq (.of_cons (hostWrite_history h) trivial)

theorem hostGo_report {s t : State} (h : hostGo s = .next t) : HostReport s t := by
  have hsuccess := hostCode_success s
  have read {r : Reg} {u : State} (h : HostReport (logRead .host r s) u) : HostReport s u :=
    (logRead_report r s).trans h
  have write {r : Reg} {v : Byte} {k : State → State}
      (h : hostAfterWrite (hostWrite r v s) k = .next t) (hk : ∀ u, HostReport u (k u)) : HostReport s t := by
    obtain ⟨u, hw, rfl⟩ := hostAfterWrite_next h
    exact (hostWrite_report hw).trans (hk u)
  unfold hostGo at h
  cases hc : s.req.ctl <;> simp only [hc] at h
  case idle => cases h; exact .refl s
  case commands => exact hostCommandStep_report h
  case readBack goal code failAddr todo got =>
    have hcode : HostCode s code := .inr (.inr ⟨_, _, _, _, hc⟩)
    cases todo with
    | nil =>
      cases goal
      case init => exact initStore_report hcode h
      all_goals cases h; exact hostReturn_report hcode
    | cons i todo =>
      cases h
      exact read (hostGoto_report fun g r a todo got h => by cases h; exact hcode)
  case initPoll =>
    (repeat' split at h)
    · cases h; exact logRead_report .fstat s
    · exact read (initStore_report (hostCode_success _) h)
    · cases h; exact read (hostCommands_report _ _ _)
  case getRegs todo got =>
    cases todo with
    | nil => cases h; exact hostReturn_report hsuccess
    | cons r todo => cases h; exact read (hostGoto_report nofun)
  case bypass key =>
    split at h <;> cases h
    · exact read (hostReturnCode_report (hostCode_success _))
    · exact read (hostCommands_report _ _ _)
  case protStatus regs new =>
    split at h <;> cases h
    · exact read (hostGoto_report nofun)
    · exact read (hostReturnCode_report (.inl (by decide)))
  case protOld regs new todo old =>
    cases todo with
    | nil => cases h; exact hostGoto_report nofun
    | cons r todo => cases h; exact read (hostGoto_report nofun)
  case protProbe regs new old todo =>
    cases todo with
    | nil => cases h; exact hostGoto_report nofun
    | cons r todo => exact write h fun _ => hostGoto_report nofun
  case protReadback regs new old todo probe =>
    cases todo with
    | nil =>
      cases h
      unfold protDecide
      split
      · exact hostGoto_report nofun
      · exact hostReturnCode_report (.inl (by decide))
    | cons r todo => cases h; exact read (hostGoto_report nofun)
  case protWrite todo new =>
    split at h
    · exact write h fun _ => hostGoto_report nofun
    · cases h; exact hostReturnCode_report hsuccess
  case testBit r m => cases h; exact read (hostReturn_report (hostCode_success _))
  case rmwRead r m set => cases h; exact read (hostGoto_report nofun)
  case rmwWrite r v => exact write h fun u => hostReturnCode_report (hostCode_success u)

theorem arrayRead_report {addr : Addr} {s t : State} (h : arrayRead addr s = .next t) : HostReport s t := by
  obtain ⟨x, -, -, rfl⟩ := arrayRead_next h
  exact .of_same_req rfl (.of_cons rfl trivial)

theorem hostStep_report {m : ReqMove} {s t : State} (h : hostStep m s = .next t) : HostReport s t := by
  cases m with
  | call p cap =>
    simp only [hostStep] at h
    split at h
    · exact hostStart_report h
    · cases h; exact .refl s
  | go => exact hostGo_report h
  | read r =>
    simp only [hostStep, hostRead] at h
    split at h <;> cases h
    exact logRead_report r s
  | write r v => exact hostWrite_report h
  | arrayRead addr =>
    obtain ⟨r, -, -, rfl⟩ | ⟨-, ha⟩ := hostMemRead_next h
    · exact logRead_report r s
    · exact arrayRead_report ha

/-! ## The requesters' answers -/

/-- An offer by HOST leaves SWP as it is, or is a SWAP that SWP, idle and not halted, accepts. -/
theorem hostOffer_swp {i : Instr} {s t : State} (h : hostOffer i s = .next t) :
    t.swp = s.swp ∨ (s.swp.halted = false ∧ t.swp.call = s.swp.call) := by
  cases exec_offered h with
  | left => exact .inl rfl
  | execute k _ _ => exact .inl rfl
  | swap addr _ ho =>
    obtain ⟨-, -, hhalt, -⟩ := swapOpen_iff.mp ho
    exact .inr ⟨hhalt, rfl⟩

theorem hostStep_swp {m : ReqMove} {s t : State} (h : hostStep m s = .next t) :
    t.swp = s.swp ∨ (s.swp.halted = false ∧ t.swp.call = s.swp.call) := by
  cases hostStep_fsms h with
  | kept h => exact .inl h.swp
  | offer i hu h => exact hu.swp ▸ hostOffer_swp h

/-- The events SEQ, SWP, HOST or the environment may add in a step from `s` to `t`: `Done` of SEQ with its result, one
of R174; `Done` of SWP with a code of its own (R220) or the answer it had; breaks with P_DEBUG_ENABLE alone (R320);
and the returns of HOST. -/
def StepEvent (s t : State) : Event → Prop
  | .done .seq _ r => r = t.seq.result ∧ r ∈ executeCodes
  | .done .swp _ r => r ∈ swpCodes ∨ s.swp.call = .done r
  | .debugBreak _ => s.cfg.debugEnable = true
  | .returned r => HostCode s r.code
  | .regRead _ _ _ _ | .regWrite _ _ _ _ | .arrayRead _ _ => True
  | .callbackInvoke | .callbackReturn | .debugResume _ => True

/-- Where the codes of a step from `s` to `t` come from. -/
structure StepCodes (s t : State) : Prop where
  swp    : ∀ r, t.swp.call = .done r → s.swp.call = .done r ∨ r ∈ executeCodes
  host   : ∀ r, t.req.call = .done r →
    s.req.call = .done r ∨ r ∈ executeCodes ∨ r ∈ swpCodes ∨ s.swp.call = .done r
  ctl    : KeepsCode s t.req.ctl
  events : Adds (StepEvent s t) s t

/-- The end of an operation adds `Done` and, with P_DEBUG_ENABLE, the break. -/
theorem endOperation_adds {P : Event → Prop} {f : Fsm} {o : Owner} {r : Code} {s : State} (hdone : P (.done f o r))
    (hbreak : s.cfg.debugEnable = true → P (.debugBreak f)) : Adds P s (endOperation f o r s) := by
  refine ⟨(if s.cfg.debugEnable then [.debugBreak f] else []) ++ [.done f o r], ?_, fun e he => ?_⟩
  · rw [endOperation_history]; simp
  · cases hd : s.cfg.debugEnable <;> simp [hd] at he
    · exact he ▸ hdone
    · exact he.elim (· ▸ hbreak hd) (· ▸ hdone)

/-- The end of an operation answers its owner, and no one else. -/
theorem endOperation_calls (f : Fsm) (o : Owner) (r : Code) (s : State) :
    (endOperation f o r s).swp.call = (if o = .swp then .done r else s.swp.call) ∧
      (endOperation f o r s).req = (if o = .host then { s.req with call := .done r } else s.req) := by
  cases f <;> cases o <;> cases h : s.cfg.debugEnable <;> simp [endOperation, breakIfDebug, deliver, h]

/-- A step that answers no request leaves HOST as it is, and SWP's request. -/
structure Unanswered (s t : State) : Prop where
  req    : t.req = s.req
  call   : t.swp.call = s.swp.call
  events : Adds (StepEvent s t) s t

theorem Unanswered.codes {s t : State} (h : Unanswered s t) : StepCodes s t :=
  ⟨fun r hr => .inl (h.call ▸ hr), fun r hr => .inl (h.req ▸ hr), by rw [h.req]; exact keepsCode_self s, h.events⟩

theorem Unanswered.refl (s : State) : Unanswered s s := ⟨rfl, rfl, .of_same rfl⟩

/-- Only DECODE answers a request of SEQ (R161). -/
theorem seqStep_answers (s : State) :
    (Unanswered s (seqStep s) ∧ (seqStep s).swp = s.swp) ∨ seqStep s = seqDecode s := by
  unfold seqStep
  split
  · exact .inl ⟨.refl s, rfl⟩
  · cases hs : s.seq.state <;> simp only
    case waitReady => unfold seqWaitReady; simp only; split <;> exact .inl ⟨⟨rfl, rfl, .of_cons rfl trivial⟩, rfl⟩
    case clearErr =>
      exact .inl ⟨⟨by simp [seqClearErr], by simp [seqClearErr], .of_cons (writeFstat_history _ _ s) trivial⟩,
        by simp [seqClearErr]⟩
    case load =>
      unfold seqLoad
      simp only
      split <;> exact .inl ⟨⟨by simp, by simp, .of_cons (writeFccob_history _ _ _ s) trivial⟩, by simp⟩
    case launch =>
      exact .inl ⟨⟨by simp [seqLaunch], by simp [seqLaunch], .of_cons (writeFstat_history _ _ s) trivial⟩,
        by simp [seqLaunch]⟩
    case poll =>
      unfold seqPoll
      simp only
      (repeat' split)
      · exact .inl ⟨⟨rfl, rfl, .of_cons rfl trivial⟩, rfl⟩
      · exact .inl ⟨⟨rfl, rfl, ⟨[_, _], rfl, by simp [StepEvent]⟩⟩, rfl⟩
      · exact .inl ⟨⟨rfl, rfl, .of_cons rfl trivial⟩, rfl⟩
    case decode => exact .inr trivial
    all_goals exact .inl ⟨.refl s, trivial⟩

theorem seqDecode_calls (s : State) :
    (seqDecode s).swp.call = (if s.seq.owner = .swp then .done (decodeStatus s.win.fstat) else s.swp.call) ∧
      (seqDecode s).req
        = (if s.seq.owner = .host then { s.req with call := .done (decodeStatus s.win.fstat) } else s.req) :=
  endOperation_calls .seq s.seq.owner _ _

/-- DECODE answers SEQ's owner with the decoded status (R160, R161). -/
theorem seqDecode_codes (s : State) : StepCodes s (seqDecode s) := by
  have hcode := decodeStatus_mem s.win.fstat
  have hresult : (seqDecode s).seq.result = decodeStatus s.win.fstat := by simp [seqDecode, endOperation_seq]
  have hevents : Adds (StepEvent s (seqDecode s)) s (seqDecode s) :=
    Adds.trans (t := logRead .seq .fstat s) (.of_cons rfl trivial)
      (endOperation_adds (s := { logRead .seq .fstat s with seq := _ }) ⟨hresult.symm, hcode⟩ id)
  obtain ⟨hswp, hreq⟩ := seqDecode_calls s
  cases ho : s.seq.owner <;> simp only [ho, reduceCtorEq, if_true, if_false] at hswp hreq
  · refine ⟨fun r hr => .inl (hswp ▸ hr), fun r hr => ?_, by rw [hreq]; exact keepsCode_self s, hevents⟩
    rw [hreq] at hr
    cases hr
    exact .inr (.inl hcode)
  · refine ⟨fun r hr => ?_, fun r hr => .inl (hreq ▸ hr), by rw [hreq]; exact keepsCode_self s, hevents⟩
    rw [hswp] at hr
    cases hr
    exact .inr hcode

theorem seqStep_codes (s : State) : StepCodes s (seqStep s) := by
  obtain ⟨h, -⟩ | h := seqStep_answers s
  · exact h.codes
  · exact h ▸ seqDecode_codes s

/-- SWP's finish answers HOST (R233). -/
theorem swpFinish_codes {v : Code} {s : State} (hv : v ∈ swpCodes ∨ s.swp.call = .done v) :
    StepCodes s (swpFinish v s) := by
  obtain ⟨hswp, hreq⟩ := endOperation_calls .swp .host v
    { s with swp := { s.swp with result := v, call := .none, state := .idle } }
  refine ⟨fun r hr => ?_, fun r hr => ?_, ?_, endOperation_adds (s := { s with swp := _ }) hv id⟩
  · cases hswp.symm.trans hr
  · cases (congrArg Requester.call hreq).symm.trans hr
    exact .inr (.inr hv)
  · exact congrArg Requester.ctl hreq ▸ keepsCode_self s

/-- An offer by SWP makes it wait, or nothing. -/
theorem swpOffer_codes {k : CommandObject} {s t : State} (h : offerObject k { s with port := .swp } = .next t) :
    StepCodes s t := by
  obtain ⟨-, e⟩ | ⟨-, e⟩ := offerObject_cases k { s with port := .swp } <;> rw [e] at h <;> cases h
  · exact ⟨nofun, fun r hr => .inl hr, keepsCode_self s, .of_same rfl⟩
  · exact Unanswered.codes ⟨rfl, rfl, .of_same rfl⟩

theorem swpStep_codes {s t : State} (h : swpStep s = .next t) : StepCodes s t := by
  cases swpStep_cases h with
  | quiet ht => exact ht ▸ (Unanswered.refl s).codes
  | offer k h => exact swpOffer_codes h
  | goto st p ht => exact ht ▸ ⟨nofun, fun r hr => .inl hr, keepsCode_self s, .of_same rfl⟩
  | read ht => exact ht ▸ Unanswered.codes ⟨rfl, rfl, .of_cons rfl trivial⟩
  | readBack st ht => exact ht ▸ ⟨nofun, fun r hr => .inl hr, keepsCode_self s, .of_cons rfl trivial⟩
  | finish v hv ht => exact ht ▸ swpFinish_codes hv

theorem hostStep_codes {m : ReqMove} {s t : State} (h : hostStep m s = .next t) : StepCodes s t := by
  obtain ⟨hcall, hctl, hevents⟩ := hostStep_report h
  have hswp : t.swp.call = s.swp.call := (hostStep_swp h).elim (congrArg Swp.call) And.right
  refine ⟨fun r hr => .inl (hswp ▸ hr), fun r hr => .inl (hcall r hr), hctl, hevents.mono fun e he => ?_⟩
  cases e with
  | returned r => exact he
  | done f o r => exact he.elim
  | debugBreak f => exact he.elim
  | _ => trivial

theorem cbStep_unanswered {c : CbMove} {s t : State} (h : cbStep c s = .next t) :
    Unanswered s t ∧ t.swp = s.swp := by
  by_cases hc : s.seq.state = .cbWait
  · obtain ⟨-, rfl⟩ | ⟨addr, -, -, ha⟩ := cbStep_next hc h
    · exact ⟨⟨rfl, rfl, .of_cons rfl trivial⟩, rfl⟩
    · obtain ⟨x, -, -, rfl⟩ := arrayRead_next ha
      exact ⟨⟨rfl, rfl, .of_cons rfl trivial⟩, rfl⟩
  · simp only [cbStep, beq_iff_eq, hc, if_false] at h
    cases h
    exact ⟨.refl s, rfl⟩

theorem resumeFsm_unanswered (f : Fsm) (s : State) : Unanswered s (resumeFsm f s) := by
  unfold resumeFsm
  (repeat' split)
  · exact ⟨rfl, rfl, .of_cons rfl trivial⟩
  · exact .refl s
  · exact ⟨rfl, rfl, .of_cons rfl trivial⟩
  · exact .refl s

theorem moveStep_codes {m : Move} {s t : State} (h : moveStep m s = .next t) : StepCodes s t := by
  cases m with
  | seq => cases h; exact seqStep_codes s
  | swp => exact swpStep_codes h
  | nvm o =>
    cases h
    exact Unanswered.codes ⟨nvmStep_req o s, by rw [nvmStep_swp], .of_same (nvmStep_history o s)⟩
  | cb c =>
    obtain ⟨h, -⟩ := cbStep_unanswered h
    exact h.codes
  | host q => exact hostStep_codes h
  | debugResume f => cases h; exact (resumeFsm_unanswered f s).codes
  | reset l =>
    obtain ⟨-, rfl⟩ := resetStep_next h
    exact ⟨nofun, nofun, nofun, .of_same rfl⟩
  | lowPower =>
    obtain rfl := lowPowerStep_next h
    exact (Unanswered.refl t).codes

/-! ## The codes of the rules -/

theorem executeCodes_subset : executeCodes ⊆ swapCodes := by decide

theorem swpCodes_subset : swpCodes ⊆ swapCodes := by decide

theorem singleCode_swapCodes : ∀ r ∈ swapCodes, singleCode r = true :=
  List.all_eq_true.mp (by decide)

theorem singleCode_hostCodes : ∀ r ∈ hostCodes, singleCode r = true :=
  List.all_eq_true.mp (by decide)

theorem moveStep_codesInv {m : Move} {s t : State} (hs : CodesInv s) (h : moveStep m s = .next t) :
    CodesInv t := by
  obtain ⟨hswp, hreq, hctl, hseqDone, hswpDone, hret⟩ := hs
  obtain ⟨hswp', hreq', hctl', hevents⟩ := moveStep_codes h
  have finish {r : Code} (hr : r ∈ swpCodes ∨ s.swp.call = .done r) : r ∈ swapCodes := by
    exact hr.elim (swpCodes_subset ·) fun hr => executeCodes_subset (hswp r hr)
  have host {r : Code} (hr : HostCode s r) : singleCode r = true := by
    obtain hr | hr | ⟨g, a, todo, got, hr⟩ := hr
    · exact singleCode_hostCodes r hr
    · exact singleCode_swapCodes r (hreq r hr)
    · exact hctl g r a todo got hr
  refine ⟨fun r hr => (hswp' r hr).elim (hswp r) id, fun r hr => ?_, fun g r a todo got hr => ?_,
    fun o r hr => ?_, fun o r hr => ?_, fun r hr => ?_⟩
  · obtain hr | hr | hr := hreq' r hr
    · exact hreq r hr
    · exact executeCodes_subset hr
    · exact finish hr
  · exact host (hctl' g r a todo got hr)
  · exact (hevents.mem hr).elim (hseqDone o r) And.right
  · exact (hevents.mem hr).elim (hswpDone o r) finish
  · exact (hevents.mem hr).elim (hret r) host

/-- Settles O41: every answer, kept code and reported code of a step is one of the rules, or one held before it. -/
theorem stepKeepsCodesInv : Obligations.StepKeepsCodesInv := fun _ _ =>
  step_keeps (fun s hs => by simpa [CodesInv] using hs) (fun _ _ hs => hs) (fun _ _ _ => moveStep_codesInv)

/-- Settles O21: SEQ reports only the result of DECODE, and each code is the decoding of the flag it stands for. -/
theorem executeReportsFourCodes : Obligations.ExecuteReportsFourCodes := by
  refine ⟨fun i s t o r h hr => (moveStep_codes h).events.mem hr, fun r hr => ?_⟩
  simp only [List.mem_cons, List.not_mem_nil, or_false] at hr
  obtain rfl | rfl | rfl | rfl := hr
  · exact ⟨0x80, by decide⟩
  · exact ⟨0x20, by decide⟩
  · exact ⟨0x10, by decide⟩
  · exact ⟨0x01, by decide⟩

/-! ## Debug breaks -/

/-- A halted SWP takes no step and accepts nothing: only SEQ's answer reaches it (R320). -/
theorem moveStep_swp_halted {m : Move} {s t : State} (hh : s.swp.halted = true) (hf : m ≠ .debugResume .swp)
    (hr : ∀ l, m ≠ .reset l) (h : moveStep m s = .next t) : t.swp = { s.swp with call := t.swp.call } := by
  have kept {u : State} (h : u.swp = s.swp) : u.swp = { s.swp with call := u.swp.call } := by rw [h]
  cases m with
  | seq =>
    cases h
    obtain ⟨-, h⟩ | h := seqStep_answers s
    · exact kept h
    · rw [h]
      exact (endOperation_keepsRequesters _ _ rfl rfl).swp
  | swp => rw [swpStep_halted hh h]
  | nvm o => cases h; exact kept (nvmStep_swp o s)
  | cb c =>
    obtain ⟨-, h⟩ := cbStep_unanswered h
    exact kept h
  | host q =>
    obtain h | ⟨hhalt, -⟩ := hostStep_swp h
    · exact kept h
    · simp [hh] at hhalt
  | debugResume f =>
    cases f with
    | swp => exact absurd rfl hf
    | seq =>
      cases h
      unfold resumeFsm
      simp only
      split <;> rfl
  | reset l => exact absurd rfl (hr l)
  | lowPower =>
    obtain rfl := lowPowerStep_next h
    rfl

/-- A halted SEQ takes no step and accepts nothing (R320). -/
theorem moveStep_seq_halted {m : Move} {s t : State} (hh : s.seq.halted = true) (hidle : s.seq.state = .idle)
    (hf : m ≠ .debugResume .seq) (hr : ∀ l, m ≠ .reset l) (h : moveStep m s = .next t) : t.seq = s.seq := by
  cases moveStep_seqChange h with
  | kept h => exact h
  | accepted n p o _ hhalt => simp [hh] at hhalt
  | returned _ hs => simp [hidle] at hs
  | resumed hm => exact absurd hm hf
  | stepped _ h => simp [h, seqStep, hh]
  | reset l hm => exact absurd hm (hr l)

/-- SWP ends its operation halted where the end of the operation breaks (R233, R320). -/
theorem endOperation_swp_halted (o : Owner) (r : Code) {s : State} (hd : s.cfg.debugEnable = true) :
    (endOperation .swp o r s).swp.halted = true := by
  cases o <;> simp [endOperation, breakIfDebug, deliver, hd]

theorem seqDecode_breaks {s : State} (hd : s.cfg.debugEnable = true) :
    ∃ rest, (seqDecode s).history
        = .debugBreak .seq :: .done .seq s.seq.owner (decodeStatus s.win.fstat) :: rest ∧
      (seqDecode s).seq.halted = true := by
  refine ⟨(logRead .seq .fstat s).history, ?_, ?_⟩
  · simp [seqDecode, endOperation_history, hd]
  · simp [seqDecode, endOperation_seq, hd]

theorem swpFinish_breaks (v : Code) {s : State} (hd : s.cfg.debugEnable = true) :
    (swpFinish v s).history = .debugBreak .swp :: .done .swp .host v :: s.history ∧
      (swpFinish v s).swp.halted = true := by
  refine ⟨?_, endOperation_swp_halted .host v hd⟩
  simp [swpFinish, endOperation_history, hd]

/-- Settles O36: the end of each operation, the halt it leaves, and DebugResume. -/
theorem debugBreakHaltsTheFsm : Obligations.DebugBreakHaltsTheFsm := by
  refine ⟨fun s hd hs hh => ?_, fun s v hd => ?_, fun i s t h hr => ⟨fun hh hf hidle => ?_, fun hh hf _ => ?_⟩,
    fun s => ⟨?_, ?_⟩, fun i s t f hd h hf => ?_⟩
  · rw [seqStep_decode hs hh]
    exact seqDecode_breaks hd
  · exact swpFinish_breaks v hd
  · exact moveStep_seq_halted (s := floatFstat i.rsv s) hh hidle hf hr h
  · exact moveStep_swp_halted (s := floatFstat i.rsv s) hh hf hr h
  · cases hh : s.seq.halted <;> simp [resumeFsm, hh]
  · cases hh : s.swp.halted <;> simp [resumeFsm, hh]
  · refine ((moveStep_codes h).events.mem hf).resolve_right fun hb => ?_
    simp [StepEvent, hd] at hb

end Sys2Proof.Machine
end

section
/-! PROOFS. FSTAT and SEQ's accesses (40_sequencer.md R153-R176): the error decoder, what changes FSTAT and FCCOB, the
waits of SEQ and SWP (R158, R165, R230, R231), and the access trace of an EXECUTE (R167). -/

namespace Sys2Proof.Machine

/-! ## The error decoder -/

/-- The decoder reads three bits (R160). -/
theorem decodeStatus_errorBits (v : Byte) : decodeStatus (v &&& 0x31) = decodeStatus v := by
  revert v; decide

/-- Settles O19: the decoder's branches in order, and the bits it reads. -/
theorem decoderPriority : Obligations.DecoderPriority := by
  refine fun v => ⟨rfl, fun w hw => ?_⟩
  rw [← decodeStatus_errorBits w, hw, decodeStatus_errorBits]

/-- Settles O20: DECODE answers what the decoder says, whose first branch is ACCERR. -/
theorem accessErrorBeatsProtection : Obligations.AccessErrorBeatsProtection := by
  intro s rsv hs hh hacc _
  have hcode : decodeStatus s.win.fstat = 0x0004 := if_pos hacc
  refine ⟨_, stepInput_decode rsv hs hh, ?_, ?_, ?_⟩
  · rw [endOperation_seq]
  · rw [endOperation_seq]
    exact hcode
  · rw [endOperation_history, hcode]
    simp

/-! ## What changes FSTAT and FCCOB -/

/-- Settles O26: the step of an idle controller is the draw of the reserved bits alone. -/
theorem idleControllerTakesNoStep : Obligations.IdleControllerTakesNoStep :=
  fun o rsv s hb => congrArg Host.Outcome.next (nvmStep_idle o (s := floatFstat rsv s) hb)

/-- From `s` to `t` a named flag of FSTAT or a slot of FCCOB changes only with a write of that register, and the slot
takes the byte written (R173). -/
def ChangesByWrites (s t : State) : Prop :=
  ∃ l, Made l s t ∧
    (namedFlags t.win.fstat ≠ namedFlags s.win.fstat → ∃ v, Access.write .fstat v ∈ l) ∧
    ∀ j, t.win.fccob.get j ≠ s.win.fccob.get j → Access.write (.fccob j) (t.win.fccob.get j) ∈ l

theorem changesByWrites_of_same {l : List Access} {s t : State} (h : Made l s t)
    (hf : t.win.fstat = s.win.fstat) (hc : t.win.fccob = s.win.fccob) : ChangesByWrites s t :=
  ⟨l, h, fun hne => absurd (by rw [hf]) hne, fun j hne => absurd (by rw [hc]) hne⟩

theorem Passive.changesByWrites {l : List Access} {s t : State} (h : Passive l s t) : ChangesByWrites s t :=
  changesByWrites_of_same h.history (by rw [h.win]) (by rw [h.win])

theorem writeFstat_changes (who : Agent) (v : Byte) {s t : State} (h : Passive [] (writeFstat who v s) t) :
    ChangesByWrites s t := by
  refine ⟨_, made_write (writeFstat_history who v s) h, fun _ => ⟨v, List.mem_singleton_self _⟩, fun j hne => ?_⟩
  rw [h.win, writeFstat_eq] at hne
  exact absurd rfl hne

theorem writeFccob_changes (who : Agent) (i : Slot) (v : Byte) {s t : State}
    (h : Passive [] (writeFccob who i v s) t) : ChangesByWrites s t := by
  have hmade := made_write (writeFccob_history who i v s) h
  cases hc : s.ccif
  · have hw : writeFccob who i v s = logWrite who (.fccob i) v s := if_neg (by simpa [State.ccif] using hc)
    exact changesByWrites_of_same hmade (by rw [h.win, hw]; rfl) (by rw [h.win, hw]; rfl)
  · have hw : writeFccob who i v s = { logWrite who (.fccob i) v s with
        win := { s.win with fccob := s.win.fccob.set i v } } := if_pos (by simpa [State.ccif] using hc)
    refine ⟨_, hmade, fun hne => absurd (by rw [h.win, hw]) hne, fun j hne => ?_⟩
    simp only [h.win, hw, get_set_slot] at hne ⊢
    split at hne
    · rename_i hj
      simp [hj]
    · exact absurd rfl hne

theorem hostWrite_changes {r : Reg} {v : Byte} {s u t : State} (hw : hostWrite r v s = .next u)
    (h : Passive [] u t) : ChangesByWrites s t := by
  have hmade := made_write (hostWrite_history hw) h
  obtain ⟨-, hu⟩ := hostWrite_next hw
  obtain ⟨-, rfl⟩ | ⟨-, rfl⟩ | ⟨i, -, -, rfl⟩ | ⟨i, -, -, rfl⟩ | ⟨-, -, rfl⟩ | ⟨-, -, rfl⟩ := hu
  · exact writeFstat_changes .host v h
  · exact changesByWrites_of_same hmade (by rw [h.win]; rfl) (by rw [h.win]; rfl)
  · exact writeFccob_changes .host i v h
  all_goals exact changesByWrites_of_same hmade (by rw [h.win]; rfl) (by rw [h.win]; rfl)

theorem hostStep_changes {m : ReqMove} {s t : State} (h : hostStep m s = .next t) : ChangesByWrites s t := by
  obtain ⟨l, hmade, -⟩ := made_hostStep h
  cases hostStep_effect h with
  | passive _ h => exact h.changesByWrites
  | write hw h _ => exact hostWrite_changes hw h
  | sizes _ _ _ hp hs =>
    obtain ⟨rfl, -, -⟩ := initStore_next hs
    exact changesByWrites_of_same hmade (congrArg Window.fstat hp.win) (congrArg Window.fccob hp.win)

theorem seqStep_changes (s : State) : ChangesByWrites s (seqStep s) := by
  cases seqStep_effect s with
  | quiet h => exact h.changesByWrites
  | read h => exact h.changesByWrites
  | fstat _ h => exact writeFstat_changes .seq _ h
  | load _ h => exact writeFccob_changes .seq _ _ h

theorem moveStep_changes {m : Move} {s t : State} (hr : ∀ l, m ≠ .reset l)
    (hn : s.nvm.busy = false ∨ ∀ o, m ≠ .nvm o) (h : moveStep m s = .next t) : ChangesByWrites s t := by
  cases m with
  | seq => cases h; exact seqStep_changes s
  | swp => exact (swpStep_effect h).elim (·.changesByWrites) (·.changesByWrites)
  | nvm o =>
    cases h
    rw [nvmStep_idle o (hn.resolve_right fun hne => hne o rfl)]
    exact (Passive.refl s).changesByWrites
  | cb c => exact (cbStep_effect h).changesByWrites
  | host q => exact hostStep_changes h
  | debugResume f => cases h; exact (resumeFsm_effect f s).changesByWrites
  | reset l => exact absurd rfl (hr l)
  | lowPower =>
    obtain rfl := lowPowerStep_next h
    exact (Passive.refl t).changesByWrites

/-- Settles O27: the draw of the reserved bits changes no named flag, and a move changes a register by its write. -/
theorem fstatAndFccobChangeByWrites : Obligations.FstatAndFccobChangeByWrites := by
  intro i s t h hr hn
  obtain ⟨l, ⟨e, he, rfl⟩, hf, hc⟩ := moveStep_changes (s := floatFstat i.rsv s) hr hn h
  exact ⟨e, he, fun hne => hf (by simpa using hne), hc⟩

/-! ## Stretches of the history -/

/-- A stretch of the history with the register accesses `l`, oldest first, `c` callbacks invoked and returned from, and
nothing else. -/
structure Stretch (l : List Access) (c : Nat) (h : List Event) : Prop where
  accesses : accesses h = l
  invokes  : h.count .callbackInvoke = c
  returns  : h.count .callbackReturn = c
  length   : h.length = l.length + 2 * c

theorem Stretch.nil : Stretch [] 0 [] := ⟨rfl, rfl, rfl, rfl⟩

theorem Stretch.append {l l' : List Access} {c c' : Nat} {h h' : List Event} (ht : Stretch l c h)
    (ht' : Stretch l' c' h') : Stretch (l ++ l') (c + c') (h' ++ h) := by
  obtain ⟨ha, hi, hr, hn⟩ := ht
  obtain ⟨ha', hi', hr', hn'⟩ := ht'
  refine ⟨by rw [accesses_append, ha, ha'], ?_, ?_, ?_⟩
  · rw [List.count_append, hi, hi', Nat.add_comm]
  · rw [List.count_append, hr, hr', Nat.add_comm]
  · rw [List.length_append, List.length_append, hn, hn']
    omega

/-- Where every event is a register access, none is another event. -/
theorem count_of_accesses {h : List Event} (hl : h.length = (accesses h).length) {e : Event}
    (he : e.isAccess = false) : h.count e = 0 := by
  rw [← accessCount_eq, accessCount, eq_comm, List.length_filter_eq_length_iff] at hl
  refine List.count_eq_zero.mpr fun hmem => ?_
  simp [hl e hmem] at he

theorem Stretch.of_accesses {l : List Access} {h : List Event} (ha : Machine.accesses h = l)
    (hl : h.length = l.length) : Stretch l 0 h := by
  have hl' : h.length = (Machine.accesses h).length := by rw [ha, hl]
  exact ⟨ha, count_of_accesses hl' rfl, count_of_accesses hl' rfl, hl⟩

/-! ## SEQ's waits -/

/-- From `s` to `u` the events `h` are added, FSTAT's reserved bits may float, and nothing else changes. -/
def Waited (h : List Event) (s u : State) : Prop :=
  ∃ f, namedFlags f = namedFlags s.win.fstat ∧
    u = { s with win := { s.win with fstat := f }, history := h ++ s.history }

theorem Waited.refl (s : State) : Waited [] s s := ⟨_, rfl, rfl⟩

theorem Waited.trans {h h' : List Event} {s u v : State} (hw : Waited h s u) (hw' : Waited h' u v) :
    Waited (h' ++ h) s v := by
  obtain ⟨f, hf, rfl⟩ := hw
  obtain ⟨f', hf', rfl⟩ := hw'
  exact ⟨f', hf'.trans hf, by simp⟩

theorem ccif_of_namedFlags {f g : Byte} (h : namedFlags g = namedFlags f) : ccif g = ccif f := by
  rw [← ccif_namedFlags g, h, ccif_namedFlags]

/-- SEQ, not halted, is in state `st` with CCIF = 0. -/
structure Busy (st : SeqState) (s : State) : Prop where
  state  : s.seq.state = st
  halted : s.seq.halted = false
  ccif   : s.ccif = false

theorem Busy.floatFstat {st : SeqState} {s : State} (hs : Busy st s) (rsv : BitVec 3) :
    Busy st (Machine.floatFstat rsv s) :=
  ⟨hs.state, hs.halted, (State.ccif_floatFstat rsv s).trans hs.ccif⟩

theorem Waited.busy {h : List Event} {st : SeqState} {s u : State} (hw : Waited h s u) (hs : Busy st s) :
    Busy st u := by
  obtain ⟨f, hf, rfl⟩ := hw
  exact ⟨hs.state, hs.halted, (ccif_of_namedFlags hf).trans hs.ccif⟩

/-- A run of `k` rounds of a wait, where each round of the moves `ms` is a read of FSTAT with `c` callbacks. -/
theorem runInputs_rounds {st : SeqState} {cfg : Config} {ms : List Move} {c : Nat}
    (round : ∀ {s : State} {ins : List Input}, Busy st s → s.cfg = cfg → makes ins ms →
      ∃ u h, runInputs ins s = .next u ∧ Waited h s u ∧ Stretch [.read .fstat] c h) :
    ∀ (k : Nat) {s : State} {ins : List Input}, Busy st s → s.cfg = cfg →
      makes ins (List.replicate k ms).flatten →
      ∃ u h, runInputs ins s = .next u ∧ Waited h s u ∧ Stretch (List.replicate k (.read .fstat)) (k * c) h
  | 0, s, ins, _, _, hm => by
    obtain rfl := makes_nil.mp hm
    exact ⟨s, [], rfl, .refl s, by simpa using Stretch.nil⟩
  | k + 1, s, ins, hs, hcfg, hm => by
    rw [List.replicate_succ, List.flatten_cons] at hm
    obtain ⟨a, b, rfl, ha, hb⟩ := makes_append.mp hm
    obtain ⟨u, h, hrun, hw, ht⟩ := round hs hcfg ha
    have hcfg' : u.cfg = cfg := by
      obtain ⟨f, -, rfl⟩ := hw
      exact hcfg
    obtain ⟨v, h', hrun', hw', ht'⟩ := runInputs_rounds round k (hw.busy hs) hcfg' hb
    refine ⟨v, h' ++ h, (runInputs_append_next hrun).trans hrun', hw.trans hw', ?_⟩
    have := ht.append ht'
    rwa [List.singleton_append, ← List.replicate_succ, show c + k * c = (k + 1) * c by ring] at this

/-- One read of FSTAT by SEQ, and no more. -/
theorem waited_read (rsv : BitVec 3) (s : State) :
    Waited [.regRead .seq .fstat (regAddr s.cfg .fstat) (floatReserved rsv s.win.fstat)] s
      (logRead .seq .fstat (floatFstat rsv s)) :=
  ⟨floatReserved rsv s.win.fstat, namedFlags_floatReserved rsv _, rfl⟩

theorem stretch_read {who : Agent} {r : Reg} {a : Addr} {v : Byte} :
    Stretch [.read r] 0 [.regRead who r a v] := .of_accesses rfl rfl

/-- WAIT_READY with CCIF = 0 (R153, R154). -/
theorem stepInput_waitReady_busy (rsv : BitVec 3) {s : State} (hs : Busy .waitReady s) :
    stepInput { rsv := rsv, move := .seq } s = .next (logRead .seq .fstat (floatFstat rsv s)) := by
  obtain ⟨hst, hh, hc⟩ := hs.floatFstat rsv
  rw [stepInput_seq, seqStep_waitReady hst hh, seqWaitReady]
  simp only [hc, Bool.false_eq_true, if_false]

/-- POLL with CCIF = 0 and no callback (R158). -/
theorem stepInput_poll_busy (rsv : BitVec 3) {s : State} (hs : Busy .poll s) (hcb : s.cfg.callback = false) :
    stepInput { rsv := rsv, move := .seq } s = .next (logRead .seq .fstat (floatFstat rsv s)) := by
  obtain ⟨hst, hh, hc⟩ := hs.floatFstat rsv
  rw [stepInput_seq, seqStep_poll hst hh, seqPoll]
  simp only [hc, floatFstat_cfg, hcb, Bool.false_eq_true, if_false]

/-- POLL with CCIF = 0 invokes the registered callback (R162). -/
theorem stepInput_poll_callback (rsv : BitVec 3) {s : State} (hs : Busy .poll s) (hcb : s.cfg.callback = true) :
    stepInput { rsv := rsv, move := .seq } s = .next (({ logRead .seq .fstat (floatFstat rsv s) with
      seq := { s.seq with state := .cbWait } }).emit .callbackInvoke) := by
  obtain ⟨hst, hh, hc⟩ := hs.floatFstat rsv
  rw [stepInput_seq, seqStep_poll hst hh, seqPoll]
  simp only [hc, floatFstat_cfg, hcb, Bool.false_eq_true, if_false, if_true]
  rfl

/-- The callback's return (R162). -/
theorem stepInput_callback_returns (rsv : BitVec 3) {s : State} (hs : s.seq.state = .cbWait) :
    stepInput { rsv := rsv, move := .cb .ret } s = .next (({ floatFstat rsv s with
      seq := { s.seq with state := .poll } }).emit .callbackReturn) := by
  simp only [stepInput, moveStep, cbStep, floatFstat_seq, hs, beq_self_eq_true, if_true]

/-- WAIT_READY reads FSTAT for as long as CCIF = 0, without a callback. -/
theorem runInputs_waitReady_busy (k : Nat) {s : State} {ins : List Input} (hs : Busy .waitReady s)
    (hm : makes ins (List.replicate k .seq)) :
    ∃ u h, runInputs ins s = .next u ∧ Waited h s u ∧ Stretch (List.replicate k (.read .fstat)) 0 h := by
  refine runInputs_rounds (cfg := s.cfg) (ms := [.seq]) (c := 0) (fun {s ins} hs _ hm => ?_) k hs rfl (by simpa using hm)
  obtain ⟨rsv, last⟩ := runInputs_of_makes_singleton hm
  exact ⟨_, _, (last s).trans (stepInput_waitReady_busy rsv hs), waited_read rsv s, stretch_read⟩

/-- One poll with CCIF = 0: a read, and with a registered callback its invocation and return. -/
theorem runInputs_poll_round {s : State} {ins : List Input} (hs : Busy .poll s)
    (hm : makes ins (if s.cfg.callback then [Move.seq, Move.cb .ret] else [Move.seq])) :
    ∃ u h, runInputs ins s = .next u ∧ Waited h s u ∧
      Stretch [.read .fstat] (if s.cfg.callback then 1 else 0) h := by
  cases hcb : s.cfg.callback <;> simp only [hcb, Bool.false_eq_true, if_false, if_true] at hm ⊢
  · obtain ⟨rsv, last⟩ := runInputs_of_makes_singleton hm
    exact ⟨_, _, (last s).trans (stepInput_poll_busy rsv hs hcb), waited_read rsv s, stretch_read⟩
  · obtain ⟨r1, rest, hm', run⟩ := runInputs_of_makes_cons hm
    obtain ⟨r2, last⟩ := runInputs_of_makes_singleton hm'
    have hrun := (run _ _ (stepInput_poll_callback r1 hs hcb)).trans
      ((last _).trans (stepInput_callback_returns r2 rfl))
    have hstate : ({ s.seq with state := .poll } : Seq) = s.seq := by rw [← hs.state]
    refine ⟨_, [.callbackReturn, .callbackInvoke,
      .regRead .seq .fstat (regAddr s.cfg .fstat) (floatReserved r1 s.win.fstat)], hrun,
      ⟨floatReserved r2 (floatReserved r1 s.win.fstat), by simp, ?_⟩, ⟨rfl, rfl, rfl, rfl⟩⟩
    simp only [State.emit, hstate]
    rfl

/-- POLL reads FSTAT for as long as CCIF = 0, with a callback each time if one is registered. -/
theorem runInputs_polls (k : Nat) {s : State} {ins : List Input} (hs : Busy .poll s)
    (hm : makes ins (pollMoves s.cfg.callback k)) :
    ∃ u h, runInputs ins s = .next u ∧ Waited h s u ∧
      Stretch (List.replicate k (.read .fstat)) (k * if s.cfg.callback then 1 else 0) h :=
  runInputs_rounds (cfg := s.cfg)
    (fun hs hcfg hm => by rw [← hcfg] at hm ⊢; exact runInputs_poll_round hs hm) k hs rfl hm

/-! ## SWP's waits -/

theorem swpStep_keepsWaiting {s : State} (hh : s.swp.halted = false)
    (hk : keepsWaiting s.cfg.swapState s.swp.state s.swp.mode) : swpStep s = swpWait false s := by
  obtain ⟨hs, hm⟩ | ⟨hs, hm⟩ | ⟨hs, hm⟩ := hk
  · simp [swpStep, hh, hs, hm]
  · simp [swpStep, hh, hs, hm]
  · simp only [swpStep, hh, hs, beq_eq_false_iff_ne.mpr hm, Bool.false_eq_true, if_false]

theorem swpStep_leavesWaiting {s : State} (hh : s.swp.halted = false)
    (hs : s.swp.state ∈ [SwpState.waitUninit, .waitReady, .waitComp])
    (hk : ¬keepsWaiting s.cfg.swapState s.swp.state s.swp.mode) : swpStep s = swpWait true s := by
  simp only [List.mem_cons, List.not_mem_nil, or_false] at hs
  obtain hs | hs | hs := hs
  · have hm : (s.swp.mode != s.cfg.swapState.uninit) = true := bne_iff_ne.mpr fun hm => hk (.inl ⟨hs, hm⟩)
    simp only [swpStep, hh, hs, hm, Bool.false_eq_true, if_false]
  · have hm : (s.swp.mode != s.cfg.swapState.ready) = true := bne_iff_ne.mpr fun hm => hk (.inr (.inl ⟨hs, hm⟩))
    simp only [swpStep, hh, hs, hm, Bool.false_eq_true, if_false]
  · have hm : (s.swp.mode == s.cfg.swapState.complete) = true :=
      beq_iff_eq.mpr (not_not.mp fun hm => hk (.inr (.inr ⟨hs, hm⟩)))
    simp only [swpStep, hh, hs, hm, Bool.false_eq_true, if_false]

/-- In REREAD mode SWP's wait reads FCCOB5 for as long as neither the code it holds nor the one it reads ends it
(R230). -/
theorem runInputs_rereads : ∀ (k : Nat) {s : State} {ins : List Input}, s.cfg.waitMode = .rereadFccob5 →
    s.swp.halted = false → keepsWaiting s.cfg.swapState s.swp.state s.swp.mode →
    keepsWaiting s.cfg.swapState s.swp.state (s.win.fccob.get 5) → makes ins (List.replicate k .swp) →
    ∃ u h, runInputs ins s = .next u ∧ u.swp = { s.swp with mode := u.swp.mode } ∧
      u.seq = s.seq ∧ u.nvm = s.nvm ∧ u.win.fccob = s.win.fccob ∧ u.history = h ++ s.history ∧
      accesses h = List.replicate k (.read (.fccob 5)) ∧ h.length = k
  | 0, s, ins, _, _, _, _, hm => by
    obtain rfl := makes_nil.mp hm
    exact ⟨s, [], rfl, rfl, rfl, rfl, rfl, rfl, rfl, rfl⟩
  | k + 1, s, ins, hw, hh, hk, hk5, hm => by
    obtain ⟨rsv, rest, hrest, run⟩ := runInputs_of_makes_cons hm
    have hstep : stepInput { rsv := rsv, move := .swp } s = .next (swpReadMode (floatFstat rsv s)) := by
      refine (swpStep_keepsWaiting (s := floatFstat rsv s) hh hk).trans ?_
      simp only [swpWait, floatFstat_cfg, hw, Bool.false_eq_true, if_false]
    obtain ⟨u, h, hrun, hswp, hseq, hnvm, hfccob, hhist, hacc, hlen⟩ :=
      runInputs_rereads k (s := swpReadMode (floatFstat rsv s)) hw hh hk5 hk5 hrest
    refine ⟨u, h ++ [.regRead .swp (.fccob 5) (regAddr s.cfg (.fccob 5)) (s.win.fccob.get 5)],
      (run _ _ hstep).trans hrun, hswp, hseq, hnvm, hfccob, ?_, ?_, by simp [hlen]⟩
    · rw [hhist, List.append_assoc]
      rfl
    · rw [accesses_append, hacc]
      rfl

/-- In REISSUE mode SWP's wait offers a report-status command (R230). -/
theorem stepInput_reissue (rsv : BitVec 3) {s : State} (hw : s.cfg.waitMode = .reissueReport)
    (hh : s.swp.halted = false) (hk : keepsWaiting s.cfg.swapState s.swp.state s.swp.mode)
    (hc : s.swp.call = .none) : stepInput { rsv := rsv, move := .swp } s
      = exec (.pFlashSwapReportStatus (indicatorAddr s.cfg s.swp.addr)) { floatFstat rsv s with port := .swp } := by
  refine (swpStep_keepsWaiting (s := floatFstat rsv s) hh hk).trans ?_
  simp only [swpWait, floatFstat_cfg, hw, Bool.false_and, Bool.false_eq_true, if_false, swpCommand, floatFstat_swp, hc]
  rfl

/-- A code that ends SWP's wait leads to S_DISPATCH without an access (R230, R231). -/
theorem stepInput_leavesWaiting (rsv : BitVec 3) {s : State} (hh : s.swp.halted = false)
    (hs : s.swp.state ∈ [SwpState.waitUninit, .waitReady, .waitComp])
    (hk : ¬keepsWaiting s.cfg.swapState s.swp.state s.swp.mode)
    (hc : s.cfg.waitMode = .reissueReport → s.swp.call = .none) :
    stepInput { rsv := rsv, move := .swp } s = .next (swpGoto .dispatch (floatFstat rsv s)) := by
  refine (swpStep_leavesWaiting (s := floatFstat rsv s) hh hs hk).trans ?_
  cases hw : s.cfg.waitMode
  · simp only [swpWait, floatFstat_cfg, hw, if_true]
  · simp only [swpWait, floatFstat_cfg, floatFstat_swp, hw, hc hw, beq_self_eq_true, Bool.and_self, if_true]

/-- Settles O17: the runs of each wait, and the step that leaves it. -/
theorem waitsAreUnbounded : Obligations.WaitsAreUnbounded := by
  refine ⟨fun s k ins hs hh hc hm => ?_, fun s rsv hs hh hc => ?_, fun s k ins hs hh hc hm => ?_,
    fun s k ins hw hh hk hk5 hm => ?_, fun s rsv hw hh hk hc => ?_, fun s rsv hh hs hk hc => ?_⟩
  · obtain ⟨_, h, hrun, ⟨f, hf, rfl⟩, hacc, -, -, hlen⟩ := runInputs_waitReady_busy k ⟨hs, hh, hc⟩ hm
    exact ⟨_, h, hrun, rfl, rfl, rfl, hf, rfl, hacc, by simpa using hlen⟩
  · exact ⟨_, _, stepInput_waitReady rsv hs hh hc, rfl, rfl, rfl⟩
  · obtain ⟨_, h, hrun, ⟨f, hf, rfl⟩, hacc, hinv, -, -⟩ := runInputs_polls k ⟨hs, hh, hc⟩ hm
    exact ⟨_, h, hrun, rfl, rfl, rfl, hf, rfl, hacc, by simpa using hinv⟩
  · exact runInputs_rereads k hw hh hk hk5 hm
  · exact stepInput_reissue rsv hw hh hk hc
  · exact ⟨_, stepInput_leavesWaiting rsv hh hs hk hc, rfl, rfl, rfl, rfl⟩

/-! ## The access trace of an EXECUTE -/

/-- The accesses that load and launch the object `(n, p)` once CCIF = 1: the read, the clear, the slots, the launch
(R153-R157). -/
def launchTrace (n : Slot) (p : Slots) : List Access :=
  Access.read .fstat :: Access.write .fstat 0x70 ::
    ((slotsFrom 0 n).map (fun j => Access.write (.fccob j) (p.get j)) ++ [Access.write .fstat 0x80])

/-- The trace of R167 in its stretches: the wait for CCIF, the loading and the launch, the polls, and the last two
reads. -/
theorem executeTrace_split (n : Slot) (p : Slots) (k1 k2 : Nat) : executeTrace n p (k1 + 1) (k2 + 1) =
    List.replicate k1 (Access.read .fstat) ++ launchTrace n p ++ List.replicate k2 (Access.read .fstat) ++
      List.replicate 2 (Access.read .fstat) := by
  rw [executeTrace, launchTrace, slotsFrom_zero, List.replicate_succ', show k2 + 1 + 1 = k2 + 2 by rfl,
    List.replicate_add]
  simp

/-- In `u` the command SEQ has accepted in `s` is in flight, launched on clean error flags, and SEQ polls for its
end. -/
structure InFlight (s u : State) : Prop where
  busy   : Busy .poll u
  nvm    : u.nvm.busy = true
  errors : u.win.fstat &&& 0x70 = 0
  owner  : u.seq.owner = s.seq.owner
  cfg    : u.cfg = s.cfg

theorem errors_of_namedFlags {f g : Byte} (h : namedFlags g = namedFlags f) : g &&& 0x70 = f &&& 0x70 := by
  have named (v : Byte) : namedFlags v &&& 0x70 = v &&& 0x70 := by revert v; decide
  rw [← named g, h, named]

theorem Waited.inFlight {h : List Event} {s u v : State} (hw : Waited h u v) (hu : InFlight s u) : InFlight s v := by
  have hbusy := hw.busy hu.busy
  obtain ⟨f, hf, rfl⟩ := hw
  exact ⟨hbusy, hu.nvm, (errors_of_namedFlags hf).trans hu.errors, hu.owner, hu.cfg⟩

/-- An accepted command that finds CCIF = 1 is loaded and launched (R153-R157). -/
theorem runInputs_launch {s : State} {ins : List Input} (hs : s.seq.state = .waitReady)
    (hh : s.seq.halted = false) (hc : s.ccif = true) (hm : makes ins (List.replicate (s.seq.n.val + 4) .seq)) :
    ∃ u h, runInputs ins s = .next u ∧ InFlight s u ∧ u.history = h ++ s.history ∧
      Stretch (launchTrace s.seq.n s.seq.buf) 0 h := by
  have hsplit : List.replicate (s.seq.n.val + 4) Move.seq
      = .seq :: .seq :: (List.replicate (s.seq.n.val + 1) .seq ++ [.seq]) := by
    rw [show s.seq.n.val + 4 = 2 + ((s.seq.n.val + 1) + 1) by omega, List.replicate_add, List.replicate_add]
    rfl
  rw [hsplit] at hm
  obtain ⟨r1, i1, hm1, run1⟩ := runInputs_of_makes_cons hm
  obtain ⟨r2, i2, hm2, run2⟩ := runInputs_of_makes_cons hm1
  obtain ⟨i3, i4, rfl, hload, hm4⟩ := makes_append.mp hm2
  obtain ⟨r5, last⟩ := runInputs_of_makes_singleton hm4
  have hc2 : Machine.ccif (floatReserved r2 (floatReserved r1 s.win.fstat)) = true := by
    simpa [State.ccif] using hc
  have hclean := clean_clearErrors hc2
  let a := regAddr s.cfg .fstat
  obtain ⟨f, v, h, hrun, hf, -, -, hacc, hlen⟩ := runInputs_load s.seq.n.val { s with
    seq := { s.seq with k := 0, state := .load }
    win := { s.win with fstat := clearErrors (floatReserved r2 (floatReserved r1 s.win.fstat)) 0x70 }
    history := [.regWrite .seq .fstat a 0x70, .regRead .seq .fstat a (floatReserved r1 s.win.fstat)] ++ s.history }
    i3 rfl hh (by simpa [State.ccif] using hclean.ccif) (by simp) hload
  have hf : Clean f := hclean.of_namedFlags hf
  have hlaunched := (hf.of_namedFlags (namedFlags_floatReserved r5 f)).launchedStatus
  have hrun' := ((run1 _ _ (stepInput_waitReady r1 hs hh hc)).trans (run2 _ _ (stepInput_clearErr r2 rfl hh))).trans
    ((runInputs_append_next hrun).trans ((last _).trans (stepInput_launch r5 rfl hh hf)))
  refine ⟨_, [.regWrite .seq .fstat a 0x80] ++ (h ++
    [.regWrite .seq .fstat a 0x70, .regRead .seq .fstat a (floatReserved r1 s.win.fstat)]), hrun',
    ⟨⟨rfl, hh, ccif_launchedStatus _⟩, rfl, hlaunched, rfl, rfl⟩, ?_, ?_⟩
  · simp [a]
  · have hslots : (slotsFrom 0 s.seq.n).length = s.seq.n.val + 1 := by rw [slotsFrom_zero, length_slotsUpTo]
    refine .of_accesses ?_ (by simp [launchTrace, hlen, hslots])
    rw [accesses_append, accesses_append, hacc]
    rfl

/-- The events of SEQ's answer, newest first (R161, R320). -/
def answerEvents (debug : Bool) (o : Owner) (r : Code) : List Event :=
  (if debug then [Event.debugBreak .seq] else []) ++ [Event.done .seq o r]

/-- An answer makes no access and has no callback. -/
theorem accesses_answerEvents (debug : Bool) (o : Owner) (r : Code) : accesses (answerEvents debug o r) = [] ∧
    (answerEvents debug o r).count .callbackInvoke = 0 ∧ (answerEvents debug o r).count .callbackReturn = 0 := by
  cases debug <;> exact ⟨rfl, rfl, rfl⟩

/-- The command in flight completes, and SEQ answers the code of its outcome (R158-R161, R176). -/
theorem runInputs_answer {s u : State} {o : NvmOutcome} {ins : List Input} (hu : InFlight s u)
    (hm : makes ins (.nvm o :: List.replicate 2 .seq)) :
    ∃ v h, runInputs ins u = .next v ∧
      v.history = answerEvents s.cfg.debugEnable s.seq.owner (outcomeCode o) ++ (h ++ u.history) ∧
      Stretch (List.replicate 2 (.read .fstat)) 0 h ∧ v.seq.state = .idle ∧ v.seq.result = outcomeCode o := by
  obtain ⟨⟨hs, hh, -⟩, hb, hf, howner, hcfg⟩ := hu
  obtain ⟨r6, i6, hm6, run6⟩ := runInputs_of_makes_cons hm
  obtain ⟨r7, i7, hm7, run7⟩ := runInputs_of_makes_cons hm6
  obtain ⟨r8, last⟩ := runInputs_of_makes_singleton hm7
  have hend : namedFlags (completedStatus (floatReserved r6 u.win.fstat) o) = outcomeStatus o :=
    namedFlags_completedStatus (by rw [floatReserved_errors, hf]) o
  generalize hg : completedStatus (floatReserved r6 u.win.fstat) o = g at hend
  have hcode : decodeStatus (floatReserved r7 g) = outcomeCode o := decodeStatus_of_outcome (by simpa using hend)
  have hcg : Machine.ccif g = true := by rw [← ccif_namedFlags, hend, ccif_outcomeStatus]
  obtain ⟨t, hstep, hseq, htcfg, hhist, hfstat⟩ : ∃ t, stepInput { rsv := r6, move := .nvm o } u = .next t ∧
      t.seq = u.seq ∧ t.cfg = u.cfg ∧ t.history = u.history ∧ t.win.fstat = g :=
    ⟨_, stepInput_nvm r6 o hb, rfl, rfl, rfl, hg⟩
  have hhalt : t.seq.halted = false := by rw [hseq, hh]
  have hpoll := stepInput_poll r7 (by rw [hseq, hs]) hhalt (show Machine.ccif t.win.fstat = true by rw [hfstat, hcg])
  have hrun := (run6 _ _ hstep).trans ((run7 _ _ hpoll).trans ((last _).trans (stepInput_decode r8 rfl hhalt)))
  simp only [hfstat, hcode, hseq, htcfg, hcfg, hhist, howner] at hrun
  let a := regAddr s.cfg .fstat
  refine ⟨_, [.regRead .seq .fstat a (floatReserved r8 (floatReserved r7 g)),
    .regRead .seq .fstat a (floatReserved r7 g)], hrun, ?_, .of_accesses rfl rfl, ?_, ?_⟩
  · rw [endOperation_history]
    simp [a, answerEvents]
  · rw [endOperation_seq]
  · rw [endOperation_seq]

/-- A completion of the earlier command in a wait of SEQ sets CCIF, and leaves SEQ as it is. -/
theorem stepInput_earlier (rsv : BitVec 3) (o : NvmOutcome) {s : State} (hb : s.nvm.busy = true) :
    ∃ t, stepInput { rsv := rsv, move := .nvm o } s = .next t ∧ t.seq = s.seq ∧ t.cfg = s.cfg ∧
      t.history = s.history ∧ t.ccif = true :=
  ⟨_, stepInput_nvm rsv o hb, rfl, rfl, rfl, ccif_completedStatus _ o⟩

/-- Settles O16: the wait for the earlier command, its completion, the launch, the polls, and the answer. -/
theorem executeAccessTrace : Obligations.ExecuteAccessTrace := by
  intro s k1 k2 o1 o ins hs hh hc hb hm
  obtain ⟨i1, j1, rfl, hm1, hm⟩ := makes_append.mp hm
  obtain ⟨r, j2, hm, run2⟩ := runInputs_of_makes_cons hm
  obtain ⟨i3, j3, rfl, hm3, hm⟩ := makes_append.mp hm
  obtain ⟨i4, i5, rfl, hm4, hm5⟩ := makes_append.mp hm
  obtain ⟨_, h1, hrun1, ⟨f1, -, rfl⟩, hst1⟩ := runInputs_waitReady_busy k1 ⟨hs, hh, hc⟩ hm1
  obtain ⟨t, hstep, hseq, hcfg, hhist, htc⟩ := stepInput_earlier r o1 (s := { s with
    win := { s.win with fstat := f1 }, history := h1 ++ s.history }) hb
  simp only at hseq hcfg hhist
  obtain ⟨u, h3, hrun3, hu, hhist3, hst3⟩ := runInputs_launch (by rw [hseq, hs]) (by rw [hseq, hh]) htc
    (hseq ▸ hm3)
  obtain ⟨v, h4, hrun4, hw, hst4⟩ := runInputs_polls k2 hu.busy (by rw [hu.cfg, hcfg]; exact hm4)
  obtain ⟨w, h5, hrun5, hhist5, hst5, hidle, hresult⟩ := runInputs_answer (hw.inFlight hu) hm5
  have hrun := (runInputs_append_next hrun1).trans ((run2 _ _ hstep).trans
    ((runInputs_append_next hrun3).trans ((runInputs_append_next hrun4).trans hrun5)))
  have hhist4 : v.history = h4 ++ u.history := by
    obtain ⟨f, -, rfl⟩ := hw
    rfl
  obtain ⟨hacc, hinv, hret, -⟩ := ((hst1.append hst3).append hst4).append hst5
  obtain ⟨hend, hendinv, hendret⟩ := accesses_answerEvents t.cfg.debugEnable t.seq.owner (outcomeCode o)
  have hevents : w.history = answerEvents t.cfg.debugEnable t.seq.owner (outcomeCode o) ++
      (h5 ++ (h4 ++ (h3 ++ h1))) ++ s.history := by
    rw [hhist5, hhist4, hhist3, hhist]
    simp only [List.append_assoc]
  have htrace := executeTrace_split s.seq.n s.seq.buf k1 k2
  rw [← hseq, ← hacc] at htrace
  refine ⟨w, _, hrun, hevents, ?_, ?_, ?_, ?_, ?_, hidle, hresult⟩
  · rw [accesses_append, hend, List.append_nil, ← hseq, htrace]
  · rw [accessCount_eq, accesses_append, hend, List.append_nil, ← htrace, length_executeTrace, hseq]
    omega
  · rw [List.count_append, hendinv, hinv, hu.cfg, hcfg]
    simp
  · rw [List.count_append, hendret, hret, hu.cfg, hcfg]
    simp
  · rw [hseq]
    simp [answerEvents]

end Sys2Proof.Machine
end

section
/-! PROOFS. Each listed command is served as its object (41_commands.md R190-R207, 42_swap_fsm.md R223-R228): in the slots
of its row in P_LAYOUT, and as the object of R126 where that row is the table's. -/

namespace Sys2Proof.Machine

/-! ## Operand bytes -/

theorem pack4_eq_dataBytes (e : Endian) (v : BitVec 32) : pack4 e v = dataBytes e v := by
  cases e <;> rfl

/-- A key is its eight bytes. -/
theorem key_toList (key : Vector Byte 8) :
    key.toList = [key[0], key[1], key[2], key[3], key[4], key[5], key[6], key[7]] := by
  refine List.ext_getElem (by simp) fun i hi _ => ?_
  have hi8 : i < 8 := by simpa using hi
  interval_cases i <;> simp

/-! ## Objects in the table of R126 -/

/-- The rows SWP's rules write out are those of R126 in every layout (R220, R223, R232). -/
theorem Layout.row_of_swp {l : Layout} (h : l.ok = true) {o : Opcode} (ho : o = .eraseSector ∨ o = .pFlashSwap) :
    l.row o = Layout.standard.row o := by
  simp only [Layout.ok, Bool.and_eq_true, beq_iff_eq] at h
  obtain ⟨⟨-, hsector⟩, hswap⟩ := h
  obtain rfl | rfl := ho
  · exact hsector
  · exact hswap

/-- In a row of R126 the object of a command is the one of that table. -/
theorem commandOf_of_row {cfg : Config} {o : Opcode} {bytes : List Byte} {k : CommandObject}
    (hrow : cfg.layout.row o = Layout.standard.row o)
    (hk : laidOut (Layout.standard.row o) (opcodeByte o) bytes = k) : commandOf cfg o bytes = k := by
  rw [commandOf, hrow, hk]

/-! ## The service of a listed command -/

section ListedCommand

variable {s : State} {i : Instr} {o : Opcode} {bytes : List Byte} {n₀ : Slot} {p₀ : Slots}
  (hready : s.ready = true) (hl : s.cfg.layout.ok = true)
  (hi : commandObject s.cfg i = some (commandOf s.cfg o bytes))
  (hk : laidOut (Layout.standard.row o) (opcodeByte o) bytes = ⟨n₀, p₀⟩)
include hready hl hi hk

/-- A command whose object has the bytes of its row is served in every layout, and as `(n₀, p₀)` in the table R126. -/
theorem servedInLayout_commandOf (hb : bytes.length = o.arity) : ServedInLayout i o bytes n₀ p₀ s := by
  have hop : p₀[0] = opcodeByte o :=
    (congrArg (fun k : CommandObject => k.p.get 0) hk).symm.trans (laidOut_opcode _ _ _)
  refine ⟨_, _, hop ▸ laidOut_spec (opcodeByte o) (Layout.row_ok hl o) hb, fun hstd => ?_,
    servedAs_commandObject hready hi⟩
  have hobj : commandOf s.cfg o bytes = ⟨n₀, p₀⟩ := commandOf_of_row (congrArg (Layout.row · o) hstd) hk
  exact ⟨congrArg CommandObject.n hobj, congrArg CommandObject.p hobj⟩

/-- A command that SWP's rules write out is served as the object of R126 in every layout. -/
theorem servedAs_commandOf (ho : o = .eraseSector ∨ o = .pFlashSwap) : ServedAs i n₀ p₀ s :=
  have hobj : commandOf s.cfg o bytes = ⟨n₀, p₀⟩ := commandOf_of_row (Layout.row_of_swp hl ho) hk
  servedAs_commandObject (k := ⟨n₀, p₀⟩) hready (hobj ▸ hi)

end ListedCommand

/-! ## The commands -/

/-- Settles O7: each object is its row's, and computed in the table R126. -/
theorem verifyCommandsAreServed : Obligations.VerifyCommandsAreServed := by
  intro s a margin count v hready hl
  refine ⟨servedInLayout_commandOf hready hl rfl rfl rfl, servedInLayout_commandOf hready hl rfl rfl rfl,
    servedInLayout_commandOf hready hl ?_ rfl rfl, servedInLayout_commandOf hready hl rfl rfl rfl⟩
  rw [← pack4_eq_dataBytes]
  rfl

/-- Settles O8: each object is its row's, with the longwords packed, and computed in the table R126. -/
theorem programCommandsAreServed : Obligations.ProgramCommandsAreServed := by
  intro s a index count v w hready hl
  refine ⟨servedInLayout_commandOf hready hl ?_ rfl rfl, servedInLayout_commandOf hready hl ?_ rfl rfl,
    servedInLayout_commandOf hready hl rfl rfl rfl, servedInLayout_commandOf hready hl ?_ rfl rfl⟩
  all_goals
    simp only [← pack4_eq_dataBytes]
    rfl

/-- Settles O9: each object is its row's; the row of EraseSector is that of R126 in every layout. -/
theorem eraseCommandsAreServed : Obligations.EraseCommandsAreServed := by
  intro s a hready hl
  exact ⟨servedInLayout_commandOf hready hl rfl rfl rfl,
    servedAs_commandOf (o := .eraseSector) hready hl rfl rfl (.inl rfl),
    servedInLayout_commandOf hready hl rfl rfl rfl, servedInLayout_commandOf hready hl rfl rfl rfl⟩

/-- Settles O10: each object is its row's, the key given byte by byte, and computed in the table R126. -/
theorem resourceCommandsAreServed : Obligations.ResourceCommandsAreServed := by
  intro s a sel index eee depart ctl key hready hl
  refine ⟨servedInLayout_commandOf hready hl rfl rfl rfl, servedInLayout_commandOf hready hl rfl rfl rfl,
    servedInLayout_commandOf hready hl rfl ?_ (by simp [Opcode.arity]),
    servedInLayout_commandOf hready hl rfl rfl rfl, servedInLayout_commandOf hready hl rfl rfl rfl⟩
  rw [key_toList]
  rfl

/-- PFlashSwap with any code, and each sub-form with its own, is served as the object of R126 that carries the code in
FCCOB4 (R204, R223). -/
theorem servedAs_objPFlashSwap {s : State} {i : Instr} {a : IAddr} {code : Byte} (hready : s.ready = true)
    (hl : s.cfg.layout.ok = true) (hi : commandObject s.cfg i = some (objPFlashSwap s.cfg a code)) :
    ServedAs i 4 #v[0x46, a.extractLsb' 16 8, a.extractLsb' 8 8, a.extractLsb' 0 8, code, 0, 0, 0, 0, 0, 0, 0] s :=
  servedAs_commandOf (o := .pFlashSwap) hready hl hi rfl (.inr rfl)

/-- Settles O11: the five forms differ in their code alone. -/
theorem swapControlCommandsAreServed : Obligations.SwapControlCommandsAreServed := by
  intro s a code hready hl
  exact ⟨servedAs_objPFlashSwap hready hl rfl, servedAs_objPFlashSwap hready hl rfl,
    servedAs_objPFlashSwap hready hl rfl, servedAs_objPFlashSwap hready hl rfl, servedAs_objPFlashSwap hready hl rfl⟩

end Sys2Proof.Machine
end

section
/-! PROOFS. Calls that fail the checks of HOST (43_requester_interface.md R261-R265, R308): the code of alignment, size or
range, before any register access. -/

namespace Sys2Proof.Machine

/-! ## The region test -/

theorem inPFlash_progErase (cfg : Config) (dest size : Nat) :
    inPFlash cfg .progErase dest size = endsInP cfg dest size := by
  simp [inPFlash, inBlock, endsInP]

theorem inDFlash_progErase (cfg : Config) (dest size : Nat) :
    inDFlash cfg .progErase dest size = endsInD cfg dest size := by
  simp [inDFlash, inBlock, endsInD]

theorem inPFlash_verify (cfg : Config) (dest size : Nat) : inPFlash cfg .verify dest size = startsInP cfg dest := by
  simp [inPFlash, inBlock, startsInP]

theorem inDFlash_verify (cfg : Config) (dest size : Nat) : inDFlash cfg .verify dest size = startsInD cfg dest := by
  simp [inDFlash, inBlock, startsInD]

/-- A request in neither region has no internal address (R262). -/
theorem translate_eq_none {cfg : Config} {f : BoundForm} {dest size : Nat}
    (h : (inPFlash cfg f dest size || inDFlash cfg f dest size) = false) : translate cfg f dest size = none := by
  obtain ⟨hp, hd⟩ := Bool.or_eq_false_iff.mp h
  simp [translate, hp, hd]

/-! ## Requests that fail the checks -/

/-- The checks find a caller's error: destination alignment first, then that of the size, then the range (R261). -/
theorem checkRequest_error {cfg : Config} {f : BoundForm} {al dest size : Nat} {code : Code}
    (h : callerError al dest size (inPFlash cfg f dest size || inDFlash cfg f dest size) code) :
    checkRequest cfg f al dest size = .error code := by
  obtain ⟨hd, rfl⟩ | ⟨hd, hn, rfl⟩ | ⟨hd, hn, hrange, rfl⟩ := h
  · simp [checkRequest, alignError, hd, codeAddressAlignment]
  · simp [checkRequest, alignError, hd, hn, codeSizeAlignment]
  · simp [checkRequest, alignError, hd, hn, translate_eq_none hrange, codeRange]

theorem checkRequest_progErase_error {cfg : Config} {al dest size : Nat} {code : Code}
    (h : callerError al dest size (endsInP cfg dest size || endsInD cfg dest size) code) :
    checkRequest cfg .progErase al dest size = .error code :=
  checkRequest_error (by rwa [inPFlash_progErase, inDFlash_progErase])

theorem checkRequest_verify_error {cfg : Config} {al dest size : Nat} {code : Code}
    (h : callerError al dest size (startsInP cfg dest || startsInD cfg dest) code) :
    checkRequest cfg .verify al dest size = .error code :=
  checkRequest_error (by rwa [inPFlash_verify, inDFlash_verify])

/-- A call of units that fails its checks, whatever its source list. -/
theorem endsUntouched_hostUnits_error (rsv : BitVec 3) {c : Except Code Nat} {e : Code} (goal : Goal) (enough : Bool)
    (todo : Nat → List Instr) (s : State) (hc : c = .error e) :
    EndsUntouched e s (hostUnits c goal enough todo (floatFstat rsv s)) :=
  hc ▸ endsUntouched_hostReturnCode rsv e s

/-- A failed check stands whatever the capability check draws (log 53). -/
theorem capChecked_error (cap : Option Code) {c : Except Code Nat} {e : Code} (hc : c = .error e) :
    capChecked cap c = .error e := by
  rw [hc]
  rfl

/-- Settles O51: each call fails its checks and ends with their code. -/
theorem callerErrorsTouchNothing : Obligations.CallerErrorsTouchNothing := by
  intro s rsv cap dest size src margin count code hctl d n u call
  have ended {p : Proc} (h : EndsUntouched code s (hostStart p cap (floatFstat rsv s))) :
      EndsUntouched code s (call p) :=
    (congrArg (EndsUntouched code s) (stepInput_call rsv hctl)).mpr h
  refine ⟨fun h => ?_, fun h => ⟨?_, ?_⟩, fun h => ?_, fun h => ?_, fun h => ?_, fun h => ?_, fun h => ?_⟩
  · refine ended (hostStart_eraseSector (s := floatFstat rsv s) (wrapperSector_eq s.cfg d n) ▸ ?_)
    exact endsUntouched_hostChecked_error rsv .plain _ s (checkRequest_progErase_error h)
  · exact ended (endsUntouched_hostUnits_error rsv .plain _ _ s (checkRequest_progErase_error h))
  · exact ended (endsUntouched_hostUnits_error rsv (.check dest) _ _ s (checkRequest_progErase_error h))
  · exact ended (endsUntouched_hostUnits_error rsv .plain _ _ s (checkRequest_progErase_error h))
  · exact ended (endsUntouched_hostChecked_error rsv .plain _ s (checkRequest_verify_error h))
  · exact ended (endsUntouched_hostChecked_error rsv .plain _ s (checkRequest_verify_error h))
  · exact ended (endsUntouched_hostChecked_error rsv .plain _ s (checkRequest_progErase_error h))
  · exact ended (endsUntouched_hostChecked_error rsv .plain _ s
      (capChecked_error _ (checkRequest_progErase_error h)))

end Sys2Proof.Machine
end

section
/-! PROOFS. The command loop of HOST's procedures (43_requester_interface.md R266-R271, R282, 41_commands.md R193, R200):
one offer at a time, the first failure, and the read-backs. -/

namespace Sys2Proof.Machine

/-! ## A step of the loop -/

section Loop

variable {s : State} {goal : Goal} {k : Nat} {i : Instr}

/-- A failing command ends the loop (R271). -/
theorem hostGo_failed {t : List Instr} {r : Code} (h : s.req.ctl = .commands goal k (i :: t))
    (hcall : s.req.call = .done r) (hr : r ≠ 0) : hostGo s = .next (hostFailed goal k r s) := by
  simp only [hostGo, h, hostCommandStep, hcall]
  exact if_neg hr

/-- A succeeding command is followed by the next. -/
theorem hostGo_nextCommand {j : Instr} {t : List Instr} (h : s.req.ctl = .commands goal k (i :: j :: t))
    (hcall : s.req.call = .done 0) : hostGo s = .next (hostGoto (.commands goal (k + 1) (j :: t)) s) := by
  simp [hostGo, h, hostCommandStep, hcall, codeSuccess]

/-- The last command has succeeded. -/
theorem hostGo_lastCommand (h : s.req.ctl = .commands goal k [i]) (hcall : s.req.call = .done 0) :
    hostGo s = .next (hostCommandsEnd goal s) := by
  simp [hostGo, h, hostCommandStep, hcall, codeSuccess]

end Loop

/-- But for ProgramCheck a failure is returned as it is (R268, R271). -/
theorem hostFailed_returns {goal : Goal} (hgoal : ∀ dest, goal ≠ .check dest) (k : Nat) (r : Code) (s : State) :
    hostFailed goal k r s = hostReturnCode r s := by
  cases goal with
  | check dest => exact absurd rfl (hgoal dest)
  | _ => rfl

/-! ## Reading slots back -/

/-- Where FlashInit does not look sizes up, a read-back returns the bytes it has read. -/
theorem hostGo_readBack_returns {s : State} {goal : Goal} {c : Code} {a : Option Addr} {got : List Byte}
    (hgoal : goal ≠ .init) (h : s.req.ctl = .readBack goal c a [] got) :
    hostGo s = .next (hostReturn { code := c, failAddr := a, data := got } s) := by
  cases goal with
  | init => exact absurd rfl hgoal
  | _ => simp only [hostGo, h, hostReadBackEnd]

/-- From `s` to `u` a procedure reads `slots` back, one access each, and returns `r`. -/
structure ReadsBack (slots : List Slot) (r : ProcResult) (s u : State) : Prop where
  idle     : u.req.ctl = .idle
  returned : u.req.ret = r
  made     : Made (slots.map fun q => .read (.fccob q)) s u
  seq      : u.seq = s.seq
  fccob    : u.win.fccob = s.win.fccob

/-- The reads of a read-back: one step each, and the return of what they read (R193, R200, R268). -/
theorem runInputs_readBack {goal : Goal} {c : Code} {a : Option Addr} (hgoal : goal ≠ .init) :
    ∀ (slots : List Slot) {s : State} {got : List Byte} {ins : List Input},
    s.req.ctl = .readBack goal c a slots got → makes ins (List.replicate (slots.length + 1) (.host .go)) →
    ∃ u, runInputs ins s = .next u ∧
      ReadsBack slots { code := c, failAddr := a, data := got ++ slots.map s.win.fccob.get } s u
  | [], s, got, ins, hctl, hm => by
    obtain ⟨rsv, last⟩ := runInputs_of_makes_last_go hm
    have hgo := hostGo_readBack_returns (s := floatFstat rsv s) hgoal hctl
    exact ⟨_, (last s).trans hgo, rfl, by simp, ⟨[_], rfl, rfl⟩, rfl, rfl⟩
  | q :: slots, s, got, ins, hctl, hm => by
    obtain ⟨rsv, rest, hrest, run⟩ := runInputs_of_makes_go hm
    have hgo := hostGo_readBack (s := floatFstat rsv s) hctl
    obtain ⟨u, hrun, hidle, hret, hmade, hseq, hfccob⟩ :=
      runInputs_readBack hgoal slots (s := hostGoto _ _) rfl hrest
    refine ⟨u, (run _ _ hgo).trans hrun, hidle, ?_, Made.trans (l := [.read (.fccob q)]) ⟨[_], rfl, rfl⟩ hmade,
      hseq, hfccob⟩
    rw [hret, List.append_assoc]
    rfl

/-- After its command ReadOnce or ReadResource reads the slots of its parameter back (R193, R200; log 28). -/
theorem hostCommandsEnd_readBack {goal : Goal} {slots : List Slot} {s : State}
    (h : goal = .once ∧ slots = s.cfg.onceSlots ∨ goal = .resource ∧ slots = s.cfg.resourceSlots) :
    goal ≠ .init ∧ hostCommandsEnd goal s = hostGoto (.readBack goal codeSuccess none slots []) s := by
  obtain ⟨rfl, rfl⟩ | ⟨rfl, rfl⟩ := h <;> exact ⟨nofun, rfl⟩

/-- Settles O53: one step of the loop for each answer, and for the read-backs the run of their reads. -/
theorem wrapperLoopStopsAtFirstFailure : Obligations.WrapperLoopStopsAtFirstFailure := by
  intro s goal k i j t r ins
  refine ⟨fun hctl hcall => hostGo_offer hctl hcall, fun hctl hcall hr hgoal => ?_,
    fun dest hgoal hctl hcall hr => ?_,
    fun hctl hcall => ⟨_, hostGo_nextCommand hctl hcall, rfl, rfl, rfl, rfl, rfl⟩,
    fun hctl hcall hgoal => ?_, fun slots hctl hcall hgoal hm => ?_,
    fun hctl hcall => ⟨_, hostGo_init_done hctl hcall, rfl, rfl, rfl, rfl, rfl⟩⟩
  · have hgo := (hostGo_failed hctl hcall hr).trans (congrArg _ (hostFailed_returns hgoal k r s))
    refine ⟨_, hgo, rfl, rfl, rfl, rfl, rfl, ?_⟩
    rw [hostReturnCode_history, accesses_cons]
    exact List.append_nil _
  · subst hgoal
    exact ⟨_, hostGo_failed hctl hcall hr, rfl, rfl, rfl, rfl⟩
  · have hgo := hostGo_lastCommand hctl hcall
    obtain rfl | ⟨dest, rfl⟩ := hgoal <;> exact ⟨_, hgo, rfl, rfl, rfl, rfl⟩
  · obtain ⟨rsv, rest, hrest, run⟩ := runInputs_of_makes_go hm
    obtain ⟨hne, hend⟩ := hostCommandsEnd_readBack (s := floatFstat rsv s) hgoal
    have hgo := (hostGo_lastCommand (s := floatFstat rsv s) hctl hcall).trans (congrArg _ hend)
    obtain ⟨u, hrun, hidle, hret, ⟨h, hhist, hacc⟩, hseq, hfccob⟩ :=
      runInputs_readBack hne slots (s := hostGoto _ _) rfl hrest
    exact ⟨u, h, (run _ _ hgo).trans hrun, hidle, hret, hseq, hfccob, hhist, hacc⟩

end Sys2Proof.Machine
end

section
/-! PROOFS. SWP's steps, state by state (42_swap_fsm.md R220-R234): the finish, the check of the address, the states with
a command in SEQ, the read-back, and the order of the phases. -/

namespace Sys2Proof.Machine

/-! ## The finish -/

/-- The finish leaves the result, no request and S_IDLE, and halts SWP with P_DEBUG_ENABLE (R233, R320). -/
theorem swpFinish_swp (v : Code) (s : State) : (swpFinish v s).swp = { s.swp with
    result := v, call := .none, state := .idle, halted := s.swp.halted || s.cfg.debugEnable } := by
  cases h : s.cfg.debugEnable <;> simp [swpFinish, endOperation, breakIfDebug, deliver, h]

/-- The finish answers HOST. -/
theorem swpFinish_req (v : Code) (s : State) : (swpFinish v s).req = { s.req with call := .done v } :=
  endOperation_host_req .swp v _

@[simp] theorem swpFinish_win (v : Code) (s : State) : (swpFinish v s).win = s.win :=
  endOperation_win .swp .host v _

@[simp] theorem swpFinish_nvm (v : Code) (s : State) : (swpFinish v s).nvm = s.nvm :=
  endOperation_nvm .swp .host v _

/-- The events of SWP's finish, newest first (R233, R320). -/
def finishEvents (debug : Bool) (v : Code) : List Event :=
  (if debug then [Event.debugBreak .swp] else []) ++ [Event.done .swp .host v]

theorem swpFinish_history (v : Code) (s : State) :
    (swpFinish v s).history = finishEvents s.cfg.debugEnable v ++ s.history := by
  simp [swpFinish, endOperation_history, finishEvents]

theorem done_mem_finishEvents (debug : Bool) (v : Code) : .done .swp .host v ∈ finishEvents debug v := by
  simp [finishEvents]

/-- A finish makes no access. -/
theorem accesses_finishEvents (debug : Bool) (v : Code) : accesses (finishEvents debug v) = [] := by
  cases debug <;> rfl

/-! ## The check -/

/-- The check's bounds as integers (R222). -/
theorem swapAddrOk_iff {cfg : Config} {addr : Addr} : swapAddrOk cfg addr = true ↔
    cfg.pflashBase.toNat ≤ addr.toNat ∧ addr.toNat < cfg.pflashBase.toNat + cfg.pflashSize.toNat / 2 ∧
      ¬(cfg.pflashBase.toNat + cfg.fcfLo.toNat ≤ addr.toNat ∧
        addr.toNat < cfg.pflashBase.toNat + cfg.fcfHi.toNat) := by
  simp only [swapAddrOk, Bool.and_eq_true, Bool.not_eq_true', Bool.and_eq_false_iff, decide_eq_true_eq,
    decide_eq_false_iff_not, and_assoc, not_and_or]

theorem swpStep_check {s : State} (hh : s.swp.halted = false) (hs : s.swp.state = .check) :
    swpStep s = .next (swpCheck s) := by
  simp [swpStep, hh, hs]

theorem swpCheck_passes {s : State} (h : swapAddrOk s.cfg s.swp.addr = true) :
    swpCheck s = swpGoto .query { s with swp := { s.swp with phase := 0 } } :=
  if_pos h

theorem swpCheck_fails {s : State} (h : swapAddrOk s.cfg s.swp.addr ≠ true) :
    swpCheck s = swpFinish codeRange s :=
  if_neg h

/-- Settles O43: an accepted SWAP is checked next, and the check passes exactly inside the bounds. -/
theorem swapValidatesItsAddress : Obligations.SwapValidatesItsAddress := by
  intro s addr rsv hopen base ok
  obtain ⟨-, -, hhalt, -⟩ := swapOpen_iff.mp hopen
  have hstep : stepInput { rsv := rsv, move := .swp } (acceptSwap addr s) = _ :=
    swpStep_check (s := floatFstat rsv (acceptSwap addr s)) hhalt rfl
  refine ⟨_, _, exec_swap_open hopen, hstep, ?_⟩
  by_cases hok : ok
  · rw [swpCheck_passes (swapAddrOk_iff.mpr hok)]
    exact ⟨rfl, rfl, rfl, rfl, fun hnok => absurd hok hnok, fun _ => ⟨rfl, rfl, rfl⟩⟩
  · rw [swpCheck_fails (mt swapAddrOk_iff.mp hok), swpFinish_swp, swpFinish_seq, swpFinish_win, swpFinish_nvm,
      swpFinish_req, swpFinish_history]
    exact ⟨rfl, rfl, rfl, rfl, fun _ => ⟨rfl, rfl, rfl, _, rfl, done_mem_finishEvents _ _, accesses_finishEvents _ _⟩,
      fun h => absurd h hok⟩

/-! ## The states with a command in SEQ -/

/-- The states in which SWP has a command in SEQ (R220). -/
def commandStates : List SwpState := [.query, .setInd, .setPrep, .erase, .setComp]

/-- The command of such a state (R223, R224-R228, R232). -/
def stateCommand (cfg : Config) (addr : Addr) : SwpState → CommandObject
  | .setInd => objPFlashSwap cfg (indicatorAddr cfg addr) cfg.swapCode.setInd
  | .setPrep => objPFlashSwap cfg (indicatorAddr cfg addr) cfg.swapCode.setPrep
  | .erase => objEraseSector cfg (eraseAddr cfg addr)
  | .setComp => objPFlashSwap cfg (indicatorAddr cfg addr) cfg.swapCode.setComp
  | _ => objPFlashSwap cfg (indicatorAddr cfg addr) cfg.swapCode.report

/-- Where SWP goes after the success of its command: every swap-control command is followed by the read-back, the
erase by S_SETCOMP (R226, R229). -/
def afterCommand : SwpState → SwpState
  | .erase => .setComp
  | _ => .readMode

theorem swpStep_command {s : State} (hh : s.swp.halted = false) (hs : s.swp.state ∈ commandStates) :
    swpStep s = swpCommand (fun u => offerObject (stateCommand u.cfg s.swp.addr s.swp.state) u)
      (afterCommand s.swp.state) s := by
  simp only [commandStates, List.mem_cons, List.not_mem_nil, or_false] at hs
  obtain hs | hs | hs | hs | hs := hs <;> simp only [swpStep, hh, hs, Bool.false_eq_true, if_false] <;> rfl

/-- SWP is where it may have a request in SEQ: in a state with a command (R220), or in a wait of REISSUE mode (R230). -/
def HasCommand (s : State) : Prop :=
  s.swp.state ∈ commandStates ∨
    (s.swp.state ∈ [SwpState.waitUninit, .waitReady, .waitComp] ∧ s.cfg.waitMode = .reissueReport)

theorem swpCommand_answered {offer : State → Result} {next : SwpState} {s : State} {r : Code}
    (hcall : s.swp.call = .done r) :
    swpCommand offer next s = .next (if r = 0 then swpGoto next s else swpFinish r s) := by
  simp only [swpCommand, hcall]
  exact (apply_ite Host.Outcome.next _ _ _).symm

/-- An answered wait takes the answer, whatever code `swp_mode` holds. -/
theorem swpWait_answered {leave : Bool} {s : State} {r : Code} (hw : s.cfg.waitMode = .reissueReport)
    (hcall : s.swp.call = .done r) : swpWait leave s = .next (if r = 0 then swpGoto .readMode s else swpFinish r s) := by
  have hleave : (leave && s.swp.call == .none) = false := by simp [hcall]
  simp only [swpWait, hw, hleave, Bool.false_eq_true, if_false, swpCommand_answered hcall]

/-- An answer of SEQ ends the SWAP if it is a failure, and else takes SWP on (R226, R234). -/
theorem swpStep_answered {s : State} {r : Code} (hh : s.swp.halted = false) (hs : HasCommand s)
    (hcall : s.swp.call = .done r) :
    swpStep s = .next (if r = 0 then swpGoto (afterCommand s.swp.state) s else swpFinish r s) := by
  obtain hs | ⟨hs, hw⟩ := hs
  · rw [swpStep_command hh hs, swpCommand_answered hcall]
  · simp only [List.mem_cons, List.not_mem_nil, or_false] at hs
    obtain hs | hs | hs := hs <;>
      simp only [swpStep, hh, hs, Bool.false_eq_true, if_false, swpWait_answered hw hcall, afterCommand]

/-- Settles O46: the answer is taken in one step, which is the finish with it. -/
theorem subcommandFailureAbortsSwap : Obligations.SubcommandFailureAbortsSwap := by
  intro s r rsv hh hcall hr hs
  have hstep : stepInput { rsv := rsv, move := .swp } s = .next (swpFinish r (floatFstat rsv s)) :=
    (swpStep_answered (s := floatFstat rsv s) hh hs hcall).trans (congrArg _ (if_neg hr))
  refine ⟨_, finishEvents s.cfg.debugEnable r, hstep, ?_⟩
  rw [swpFinish_swp, swpFinish_req, swpFinish_seq, swpFinish_nvm, swpFinish_win, swpFinish_history]
  exact ⟨rfl, rfl, rfl, rfl, rfl, rfl, rfl, rfl, done_mem_finishEvents _ _, accesses_finishEvents _ _⟩

/-! ## The read-back -/

theorem swpStep_readMode {s : State} (hh : s.swp.halted = false) (hs : s.swp.state = .readMode) :
    swpStep s = .next (swpAfterCommand s) := by
  simp [swpStep, hh, hs]

/-- The read-back goes to the dispatch or the wait of its phase (R229). -/
theorem swpAfterCommand_eq (s : State) : swpAfterCommand s = swpGoto (waitOfPhase s.swp.phase) (swpReadMode s) := by
  unfold swpAfterCommand
  obtain h | h | h | h := phase_cases s.swp.phase <;> simp [h, waitOfPhase]

/-- Settles O47: the success is taken without an access, and the read-back is the one read. -/
theorem successReadsTheSwapState : Obligations.SuccessReadsTheSwapState := by
  refine ⟨fun s rsv hh hcall hs => ?_, fun s rsv hh hs => ?_⟩
  · have hcommand : HasCommand s ∧ afterCommand s.swp.state = .readMode := by
      simp only [List.mem_cons, List.not_mem_nil, or_false] at hs
      obtain (h | h | h | h) | ⟨h | h | h, hw⟩ := hs <;> simp_all [HasCommand, commandStates, afterCommand]
    obtain ⟨hcommand, hafter⟩ := hcommand
    have hstep : stepInput { rsv := rsv, move := .swp } s = .next (swpGoto .readMode (floatFstat rsv s)) :=
      hafter ▸ swpStep_answered (s := floatFstat rsv s) hh hcommand hcall
    exact ⟨_, hstep, rfl, rfl, rfl⟩
  · have hstep : stepInput { rsv := rsv, move := .swp } s = .next _ :=
      (swpStep_readMode (s := floatFstat rsv s) hh hs).trans (congrArg _ (swpAfterCommand_eq _))
    exact ⟨_, _, hstep, rfl, rfl, rfl, rfl, rfl, rfl⟩

/-! ## The order of the phases -/

/-- The phase S_DISPATCH enters from phase `p` with code `m`, and its state; none if it finishes (R229). -/
def dispatchTarget (c : SwapStateCodes) (p : BitVec 2) (m : Byte) : Option (BitVec 2 × SwpState) :=
  if p < 1 ∧ m = c.uninit then some (1, .setInd)
  else if p < 2 ∧ m = c.ready then some (2, .setPrep)
  else if p < 3 ∧ m = c.update then some (3, .erase)
  else if p < 3 ∧ m = c.updateErased then some (3, .setComp)
  else none

theorem dispatchTarget_uninit (c : SwapStateCodes) : dispatchTarget c 0 c.uninit = some (1, .setInd) := by
  simp [dispatchTarget]

theorem dispatchTarget_ready (c : SwapStateCodes) : dispatchTarget c 1 c.ready = some (2, .setPrep) := by
  simp [dispatchTarget]

theorem dispatchTarget_update (c : SwapStateCodes) : dispatchTarget c 2 c.update = some (3, .erase) := by
  simp [dispatchTarget]

/-- After the third phase no other follows. -/
theorem dispatchTarget_last (c : SwapStateCodes) (m : Byte) : dispatchTarget c 3 m = none := by
  simp [dispatchTarget]

/-- A code that no phase acts on enters none. -/
theorem dispatchTarget_other {c : SwapStateCodes} {m : Byte} (h : m ∉ [c.uninit, c.ready, c.update, c.updateErased])
    (p : BitVec 2) : dispatchTarget c p m = none := by
  simp only [List.mem_cons, List.not_mem_nil, or_false, not_or] at h
  obtain ⟨huninit, hready, hupdate, herased⟩ := h
  simp [dispatchTarget, huninit, hready, hupdate, herased]

theorem swpDispatch_eq (s : State) : swpDispatch s =
    match dispatchTarget s.cfg.swapState s.swp.phase s.swp.mode with
    | some (q, st) => swpGoto st { s with swp := { s.swp with phase := q } }
    | none => swpFinish codeSuccess s := by
  simp only [swpDispatch, dispatchTarget, Bool.and_eq_true, decide_eq_true_eq, beq_iff_eq]
  (repeat' split) <;> simp_all

theorem swpDispatch_enters {s : State} {q : BitVec 2} {st : SwpState}
    (h : dispatchTarget s.cfg.swapState s.swp.phase s.swp.mode = some (q, st)) :
    swpDispatch s = swpGoto st { s with swp := { s.swp with phase := q } } := by
  rw [swpDispatch_eq, h]

theorem swpDispatch_finishes {s : State} (h : dispatchTarget s.cfg.swapState s.swp.phase s.swp.mode = none) :
    swpDispatch s = swpFinish codeSuccess s := by
  rw [swpDispatch_eq, h]

theorem swpStep_dispatch {s : State} (hh : s.swp.halted = false) (hs : s.swp.state = .dispatch) :
    swpStep s = .next (swpDispatch s) := by
  simp [swpStep, hh, hs]

/-- The phase's state code and first state, for each phase S_DISPATCH may enter. -/
def phaseEntries (c : SwapStateCodes) : List (SwpState × Byte) :=
  [(.setInd, c.uninit), (.setPrep, c.ready), (.erase, c.update), (.setComp, c.updateErased)]

/-- S_DISPATCH enters a later phase, in a state whose guard holds (R229). -/
theorem dispatchTarget_some {c : SwapStateCodes} {p q : BitVec 2} {m : Byte} {st : SwpState}
    (h : dispatchTarget c p m = some (q, st)) : p < q ∧ (st, m) ∈ phaseEntries c := by
  unfold dispatchTarget at h
  (repeat' split at h) <;> cases h <;> simp_all [phaseEntries]

/-- What a step of SWP other than the check can do to its state and phase: keep both; go on in its phase to a state
without a command of a phase; go from the erase to S_SETCOMP; or enter a later phase whose guard holds. -/
inductive PlaceChange (s t : State) : Prop
  | stays (h : KeepsSwpPlace s t)
  | leaves (hphase : t.swp.phase = s.swp.phase) (hstate : t.swp.state ∉ [SwpState.setInd, .setPrep, .erase, .setComp])
  | erased (hphase : t.swp.phase = s.swp.phase) (hs : s.swp.state = .erase) (ht : t.swp.state = .setComp)
  | enters (hphase : s.swp.phase < t.swp.phase) (hguard : (t.swp.state, s.swp.mode) ∈ phaseEntries s.cfg.swapState)

theorem placeChange_finish (v : Code) (s : State) : PlaceChange s (swpFinish v s) :=
  .leaves (by rw [swpFinish_swp]) (by simp [swpFinish_swp])

theorem swpCommand_placeChange {k : State → CommandObject} {next : SwpState} {s t : State}
    (hn : PlaceChange s (swpGoto next s)) (h : swpCommand (fun u => offerObject (k u) u) next s = .next t) :
    PlaceChange s t := by
  obtain ⟨-, e⟩ | ⟨-, e⟩ | ⟨-, e⟩ | ⟨r, -, -, e⟩ :=
    swpCommand_cases (fun u => offerObject (k u) u) next s <;> rw [e] at h
  · obtain ⟨hstate, hphase⟩ := offerObject_keepsSwpPlace h
    exact .stays ⟨hstate, hphase⟩
  · cases h; exact .stays ⟨rfl, rfl⟩
  · cases h; exact hn
  · cases h; exact placeChange_finish r s

theorem swpWait_placeChange {leave : Bool} {s t : State} (h : swpWait leave s = .next t) : PlaceChange s t := by
  unfold swpWait at h
  (repeat' split at h)
  · cases h; exact .leaves rfl (by simp)
  · cases h; exact .stays ⟨rfl, rfl⟩
  · cases h; exact .leaves rfl (by simp)
  · exact swpCommand_placeChange (.leaves rfl (by simp)) h

theorem swpAfterCommand_placeChange (s : State) : PlaceChange s (swpAfterCommand s) := by
  rw [swpAfterCommand_eq]
  refine .leaves rfl ?_
  obtain h | h | h | h := phase_cases s.swp.phase <;> simp [h, waitOfPhase]

theorem swpDispatch_placeChange (s : State) : PlaceChange s (swpDispatch s) := by
  cases h : dispatchTarget s.cfg.swapState s.swp.phase s.swp.mode with
  | some target =>
    obtain ⟨hphase, hguard⟩ := dispatchTarget_some h
    exact swpDispatch_enters h ▸ .enters hphase hguard
  | none => exact swpDispatch_finishes h ▸ placeChange_finish _ s

theorem swpStep_placeChange {s t : State} (hc : s.swp.state ≠ .check) (h : swpStep s = .next t) : PlaceChange s t := by
  unfold swpStep at h
  split at h
  · cases h; exact .stays ⟨rfl, rfl⟩
  · cases hs : s.swp.state <;> simp only [hs] at h
    case check => exact absurd hs hc
    case idle => cases h; exact .stays ⟨rfl, rfl⟩
    case readMode => cases h; exact swpAfterCommand_placeChange s
    case dispatch => cases h; exact swpDispatch_placeChange s
    case waitUninit => exact swpWait_placeChange h
    case waitReady => exact swpWait_placeChange h
    case waitComp => exact swpWait_placeChange h
    case erase => exact swpCommand_placeChange (.erased rfl hs rfl) h
    all_goals exact swpCommand_placeChange (.leaves rfl (by simp)) h

/-- Settles O48: only S_DISPATCH changes the phase, and it raises it. -/
theorem swapPhasesGoForward : Obligations.SwapPhasesGoForward := by
  intro s t rsv hc h
  have hchange : PlaceChange (floatFstat rsv s) t := swpStep_placeChange hc h
  cases hchange with
  | stays hkept => exact ⟨BitVec.le_of_eq hkept.phase.symm, fun hne => absurd hkept.state hne⟩
  | leaves hphase hstate =>
    simp only [List.mem_cons, List.not_mem_nil, or_false, not_or] at hstate
    obtain ⟨hind, hprep, herase, hcomp⟩ := hstate
    exact ⟨BitVec.le_of_eq hphase.symm,
      fun _ => ⟨(absurd · hind), (absurd · hprep), (absurd · herase), (absurd · hcomp)⟩⟩
  | erased hphase hs ht =>
    exact ⟨BitVec.le_of_eq hphase.symm, fun _ => ⟨by simp [ht], by simp [ht], by simp [ht], fun _ => .inl hs⟩⟩
  | enters hphase hguard =>
    have hphase : s.swp.phase < t.swp.phase := hphase
    refine ⟨BitVec.le_of_lt hphase, fun _ => ?_⟩
    simp only [floatFstat_swp, floatFstat_cfg, phaseEntries, List.mem_cons, List.not_mem_nil, or_false,
      Prod.mk.injEq] at hguard
    obtain ⟨ht, hm⟩ | ⟨ht, hm⟩ | ⟨ht, hm⟩ | ⟨ht, hm⟩ := hguard <;>
      simp [ht, hm, hphase]

end Sys2Proof.Machine
end

section
/-! PROOFS. A whole SWAP (42_swap_fsm.md R220-R233, R240, R241): runs between two conditions on the state, what each part of
a SWAP does as such a run, the nominal swap controller, and the two ways a SWAP succeeds, put together from the parts. -/

namespace Sys2Proof.Machine

/-! ## Runs between two conditions -/

/-- From a state that meets `P`, every run with the moves `ms` ends in one that meets `Q`, and loads the bytes `l` into
FCCOB, in their order. -/
def Runs (ms : List Move) (l : List (Slot × Byte)) (P Q : State → Prop) : Prop :=
  ∀ s ins, P s → makes ins ms →
    ∃ u a, runInputs ins s = .next u ∧ Q u ∧ Made a s u ∧ a.filterMap Access.load = l

theorem Runs.append {ms ms' : List Move} {l l' : List (Slot × Byte)} {P Q R : State → Prop} (h : Runs ms l P Q)
    (h' : Runs ms' l' Q R) : Runs (ms ++ ms') (l ++ l') P R := by
  intro s ins hs hm
  obtain ⟨i, i', rfl, hi, hi'⟩ := makes_append.mp hm
  obtain ⟨t, a, hrun, ht, hmade, rfl⟩ := h s i hs hi
  obtain ⟨u, a', hrun', hu, hmade', rfl⟩ := h' t i' ht hi'
  exact ⟨u, a ++ a', (runInputs_append_next hrun).trans hrun', hu, hmade.trans hmade', List.filterMap_append⟩

theorem Runs.weaken {ms : List Move} {l : List (Slot × Byte)} {P Q R : State → Prop} (h : Runs ms l P Q)
    (hqr : ∀ s, Q s → R s) : Runs ms l P R := by
  intro s ins hs hm
  obtain ⟨u, a, hrun, hu, hmade, hloads⟩ := h s ins hs hm
  exact ⟨u, a, hrun, hqr u hu, hmade, hloads⟩

/-- A step of SWP loads nothing: it makes no access or reads FCCOB5 (R91). -/
theorem runs_swp {P Q : State → Prop} (hfloat : ∀ rsv s, P s → P (floatFstat rsv s))
    (h : ∀ s, P s → ∃ u, swpStep s = .next u ∧ Q u) : Runs [.swp] [] P Q := by
  intro s ins hs hm
  obtain ⟨rsv, run⟩ := runInputs_of_makes_singleton hm
  obtain ⟨u, hstep, hu⟩ := h _ (hfloat rsv s hs)
  obtain hp | hp := swpStep_effect hstep <;> exact ⟨u, _, (run s).trans hstep, hu, hp.history, rfl⟩

/-! ## The places of a SWAP -/

/-- SWP serves a SWAP of `addr`, in state `st` and phase `p` with request `c`, and no one else is at work: SEQ is idle,
nothing is in flight, no FSM is halted. The swap state is `n`. -/
structure InSwap (cfg : Config) (addr : Addr) (st : SwpState) (p : BitVec 2) (c : Call) (n : SwapState) (s : State) :
    Prop where
  config     : s.cfg = cfg
  address    : s.swp.addr = addr
  state      : s.swp.state = st
  phase      : s.swp.phase = p
  call       : s.swp.call = c
  running    : s.swp.halted = false
  seqIdle    : s.seq.state = .idle
  seqRunning : s.seq.halted = false
  ccif       : s.ccif = true
  notBusy    : s.nvm.busy = false
  swapState  : s.nvm.swapState = n

/-- At such a place, with no request, SWP holds the state code `m` (R229). -/
def AtCode (cfg : Config) (addr : Addr) (st : SwpState) (p : BitVec 2) (n : SwapState) (m : Byte) (s : State) : Prop :=
  InSwap cfg addr st p .none n s ∧ s.swp.mode = m

section Places

variable {cfg : Config} {addr : Addr} {st : SwpState} {p : BitVec 2} {c : Call} {n : SwapState} {s : State}

theorem InSwap.floatFstat (rsv : BitVec 3) (h : InSwap cfg addr st p c n s) :
    InSwap cfg addr st p c n (floatFstat rsv s) :=
  ⟨h.config, h.address, h.state, h.phase, h.call, h.running, h.seqIdle, h.seqRunning,
    (State.ccif_floatFstat rsv s).trans h.ccif, h.notBusy, h.swapState⟩

theorem AtCode.floatFstat {m : Byte} (rsv : BitVec 3) (h : AtCode cfg addr st p n m s) :
    AtCode cfg addr st p n m (floatFstat rsv s) :=
  ⟨h.1.floatFstat rsv, h.2⟩

/-- SWP goes to a state in a phase. -/
theorem InSwap.goto (st' : SwpState) (q : BitVec 2) (h : InSwap cfg addr st p c n s) :
    InSwap cfg addr st' q .none n (swpGoto st' { s with swp := { s.swp with phase := q } }) :=
  ⟨h.config, h.address, rfl, rfl, rfl, h.running, h.seqIdle, h.seqRunning, h.ccif, h.notBusy, h.swapState⟩

/-- SWP goes to a state in its phase. -/
theorem InSwap.stay (st' : SwpState) (h : InSwap cfg addr st p c n s) :
    InSwap cfg addr st' p .none n (swpGoto st' s) :=
  ⟨h.config, h.address, rfl, h.phase, rfl, h.running, h.seqIdle, h.seqRunning, h.ccif, h.notBusy, h.swapState⟩

end Places

/-! ## The steps without a command -/

section Parts

variable {cfg : Config} {addr : Addr} {p : BitVec 2} {n : SwapState}

theorem runs_check {c : Call} (hok : swapAddrOk cfg addr = true) :
    Runs [.swp] [] (InSwap cfg addr .check p c n) (InSwap cfg addr .query 0 .none n) := by
  refine runs_swp (fun rsv _ hs => hs.floatFstat rsv) fun s hs => ⟨_, swpStep_check hs.running hs.state, ?_⟩
  rw [swpCheck_passes (by rw [hs.config, hs.address, hok])]
  exact hs.goto .query 0

/-- The read-back takes the code from FCCOB5 (R226). -/
theorem runs_readBack {b : Byte} : Runs [.swp] []
    (fun s => InSwap cfg addr .readMode p .none n s ∧ s.win.fccob.get 5 = b)
    (AtCode cfg addr (waitOfPhase p) p n b) := by
  refine runs_swp (fun rsv _ hs => ⟨hs.1.floatFstat rsv, hs.2⟩) fun s hs =>
    ⟨_, swpStep_readMode hs.1.running hs.1.state, ?_⟩
  obtain ⟨hs, hb⟩ := hs
  rw [swpAfterCommand_eq, hs.phase]
  exact ⟨⟨hs.config, hs.address, rfl, hs.phase, rfl, hs.running, hs.seqIdle, hs.seqRunning, hs.ccif, hs.notBusy,
    hs.swapState⟩, hb⟩

theorem swpWait_leaves {s : State} (hcall : s.swp.call = .none) : swpWait true s = .next (swpGoto .dispatch s) := by
  cases hw : s.cfg.waitMode <;> simp [swpWait, hw, hcall]

/-- A code that ends the wait leads to S_DISPATCH at once (R230, R231). -/
theorem runs_leave {st : SwpState} {m : Byte} (hst : st ∈ [SwpState.waitUninit, .waitReady, .waitComp])
    (hm : ¬keepsWaiting cfg.swapState st m) :
    Runs [.swp] [] (AtCode cfg addr st p n m) (AtCode cfg addr .dispatch p n m) := by
  refine runs_swp (fun rsv _ hs => hs.floatFstat rsv) fun s ⟨hs, hmode⟩ => ⟨_, ?_, hs.stay .dispatch, hmode⟩
  rw [swpStep_leavesWaiting hs.running (hs.state ▸ hst) (by rwa [hs.config, hs.state, hmode]), swpWait_leaves hs.call]

/-- S_DISPATCH enters a phase (R229). -/
theorem runs_dispatch {q : BitVec 2} {st : SwpState} {m : Byte}
    (h : dispatchTarget cfg.swapState p m = some (q, st)) :
    Runs [.swp] [] (AtCode cfg addr .dispatch p n m) (InSwap cfg addr st q .none n) := by
  refine runs_swp (fun rsv _ hs => hs.floatFstat rsv) fun s ⟨hs, hmode⟩ =>
    ⟨_, swpStep_dispatch hs.running hs.state, ?_⟩
  rw [swpDispatch_enters (by rw [hs.config, hs.phase, hmode, h])]
  exact hs.goto st q

/-! ## A command of SWP -/

/-- FCCOB5 holds the byte that the outcome returned there, if it did (R170). -/
def Returned (o : NvmOutcome) (s : State) : Prop :=
  ∀ b, o.ret.get 5 = some b → s.win.fccob.get 5 = b

/-- SEQ has just accepted SWP's command in state `st`. -/
def Accepted (cfg : Config) (addr : Addr) (st : SwpState) (p : BitVec 2) (n : SwapState) (t : State) : Prop :=
  ∃ s, InSwap cfg addr st p .none n s ∧
    t = acceptExecute (stateCommand cfg addr st).n (stateCommand cfg addr st).p { s with port := .swp }

theorem InSwap.ready {st : SwpState} {s : State} (h : InSwap cfg addr st p .none n s) (hst : st ∈ commandStates) :
    State.ready { s with port := .swp } = true := by
  have hne : s.swp.state ≠ .idle := by
    rintro hidle
    rw [← h.state, hidle] at hst
    simp [commandStates] at hst
  exact State.ready_iff.mpr
    ⟨portOpen_iff.mpr ⟨h.seqIdle, h.seqRunning, iff_of_true rfl hne⟩, h.ccif, h.notBusy⟩

/-- In a state with a command SWP offers it, and SEQ accepts it. -/
theorem runs_offer {st : SwpState} (hst : st ∈ commandStates) :
    Runs [.swp] [] (InSwap cfg addr st p .none n) (Accepted cfg addr st p n) := by
  refine runs_swp (fun rsv _ hs => hs.floatFstat rsv) fun s hs => ⟨_, ?_, s, hs, rfl⟩
  obtain ⟨hport, -, -⟩ := State.ready_iff.mp (hs.ready hst)
  rw [swpStep_command hs.running (hs.state ▸ hst)]
  simp only [swpCommand, hs.call, hs.config, hs.address, hs.state]
  exact if_pos hport

/-- The run that serves an accepted command makes the accesses of R167 and leaves what `Served` says. -/
theorem acceptExecute_served_made {s : State} (hready : s.ready = true) (k : Slot) (q : Slots) {o : NvmOutcome}
    {ins : List Input} (hm : makes ins (commandMoves k o)) :
    ∃ u, runInputs ins (acceptExecute k q s) = .next u ∧ Served k q o s u ∧ Made (executeTrace k q 1 1) s u := by
  obtain ⟨u, hrun, hserved⟩ := acceptExecute_served hready k q hm
  obtain ⟨hport, hc, -⟩ := State.ready_iff.mp hready
  obtain ⟨-, hhalt, -⟩ := portOpen_iff.mp hport
  obtain ⟨f, v, h, hrun', -, -, hacc⟩ := runInputs_service (s := acceptExecute k q s) (o := o) (by simp)
    (by simpa using hhalt) (by simpa [State.ccif] using hc) (by simpa using hm)
  obtain ⟨e, he, hnone⟩ := (passive_endOperation .seq (acceptExecute k q s).seq.owner (outcomeCode o) _).history
  cases hrun.symm.trans hrun'
  refine ⟨_, hrun, hserved, e ++ h, ?_, ?_⟩
  · rw [he, acceptExecute_history, List.append_assoc]
  · rw [accesses_append, hacc, hnone, List.append_nil, acceptExecute_seq]

/-- A swap-control command and an EraseSector may change the swap state (R240). -/
theorem swapStateAfter_of_opcode {cmd : Slots} (h : cmd.get 0 ∈ ([0x46, 0x09] : List Byte)) (o : NvmOutcome) :
    swapStateAfter cfg cmd o n = o.swapState.getD n :=
  if_pos (mayChangeSwap_iff.mpr (.inl h))

theorem stateCommand_opcode (st : SwpState) : (stateCommand cfg addr st).p.get 0 ∈ ([0x46, 0x09] : List Byte) := by
  cases st <;> simp [stateCommand, objPFlashSwap, objEraseSector, commandOf, opcodeByte]

theorem loadedSlot_zero (k : Slot) (q old : Slots) : loadedSlot k q old 0 = q.get 0 :=
  if_pos (Nat.zero_le _)

/-- SEQ serves SWP's command without waiting (R150, R167). -/
theorem runs_service (hdebug : cfg.debugEnable = false) {st : SwpState} (hst : st ∈ commandStates) (o : NvmOutcome) :
    Runs (commandMoves (stateCommand cfg addr st).n o)
      (loadsOfSlots (stateCommand cfg addr st).n (stateCommand cfg addr st).p) (Accepted cfg addr st p n)
      (fun u => InSwap cfg addr st p (.done (outcomeCode o)) (swapStateAfter cfg (stateCommand cfg addr st).p o n) u ∧
        Returned o u) := by
  rintro _ ins ⟨s, hs, rfl⟩ hm
  obtain ⟨u, hrun, hserved, hmade⟩ := acceptExecute_served_made (hs.ready hst) _ (stateCommand cfg addr st).p hm
  obtain ⟨-, -, -, hswp, -⟩ := hserved.others
  have hopcode : u.nvm.cmd.get 0 ∈ ([0x46, 0x09] : List Byte) := by
    rw [hserved.command, loadedSlot_zero]
    exact stateCommand_opcode st
  refine ⟨u, _, hrun, ⟨⟨hserved.config.trans hs.config, ?_, ?_, ?_, hserved.answered, ?_, hserved.seqIdle, ?_, ?_,
    hserved.idle, ?_⟩, fun b hb => ?_⟩, ?_, loads_executeTrace _ _ 1 1⟩
  · rw [hswp]; exact hs.address
  · rw [hswp]; exact hs.state
  · rw [hswp]; exact hs.phase
  · rw [hswp]; exact hs.running
  · rw [hserved.halted]; exact (congrArg Config.debugEnable hs.config).trans hdebug
  · rw [State.ccif, ← ccif_namedFlags, hserved.status, ccif_outcomeStatus]
  · rw [swapStateAfter_of_opcode (stateCommand_opcode st), hserved.swapState,
      if_pos (mayChangeSwap_iff.mpr (.inl hopcode))]
    exact congrArg _ hs.swapState
  · rw [hserved.fccob, hb]; rfl
  · obtain ⟨h, hh, ha⟩ := hmade
    exact ⟨h, by rw [hh, acceptExecute_history], ha⟩

/-- SWP takes a success (R226). -/
theorem runs_success {st : SwpState} (hst : st ∈ commandStates) (o : NvmOutcome) :
    Runs [.swp] [] (fun s => InSwap cfg addr st p (.done 0) n s ∧ Returned o s)
      (fun u => InSwap cfg addr (afterCommand st) p .none n u ∧ Returned o u) := by
  refine runs_swp (fun rsv _ hs => ⟨hs.1.floatFstat rsv, hs.2⟩) fun s ⟨hs, hret⟩ => ⟨_, ?_, hs.stay _, hret⟩
  have hcommand : HasCommand s := .inl (hs.state ▸ hst)
  rw [swpStep_answered hs.running hcommand hs.call, hs.state, if_pos rfl]

/-- A command of SWP that succeeds: its offer, its service, and the taking of `Done`. -/
theorem runs_command (hdebug : cfg.debugEnable = false) {st : SwpState} (hst : st ∈ commandStates) {o : NvmOutcome}
    (ho : outcomeCode o = 0) {k : CommandObject} (hk : stateCommand cfg addr st = k) :
    Runs (swapCommandMoves k.n o) (loadsOfSlots k.n k.p) (InSwap cfg addr st p .none n)
      (fun u => InSwap cfg addr (afterCommand st) p .none (swapStateAfter cfg k.p o n) u ∧ Returned o u) := by
  have hservice := runs_service (addr := addr) (p := p) (n := n) hdebug hst o
  rw [ho] at hservice
  have hrun := (runs_offer hst).append (hservice.append (runs_success hst o))
  rw [List.nil_append, List.append_nil, hk] at hrun
  exact hrun

end Parts

/-! ## The objects of SWP's commands -/

/-- What a swap-control command loads (R126, R223). -/
def controlLoads (ia : IAddr) (code : Byte) : List (Slot × Byte) :=
  loadsOf [0x46, ia.extractLsb' 16 8, ia.extractLsb' 8 8, ia.extractLsb' 0 8, code]

/-- What SWP's erase loads (R126, R232). -/
def eraseLoads (a : IAddr) : List (Slot × Byte) :=
  loadsOf [0x09, a.extractLsb' 16 8, a.extractLsb' 8 8, a.extractLsb' 0 8]

section Objects

variable {cfg : Config} (hl : cfg.layout.ok = true)
include hl

theorem objPFlashSwap_eq (a : IAddr) (code : Byte) : objPFlashSwap cfg a code =
    ⟨4, #v[0x46, a.extractLsb' 16 8, a.extractLsb' 8 8, a.extractLsb' 0 8, code, 0, 0, 0, 0, 0, 0, 0]⟩ :=
  commandOf_of_row (Layout.row_of_swp hl (.inr rfl)) rfl

theorem objEraseSector_eq (a : IAddr) : objEraseSector cfg a =
    ⟨3, #v[0x09, a.extractLsb' 16 8, a.extractLsb' 8 8, a.extractLsb' 0 8, 0, 0, 0, 0, 0, 0, 0, 0]⟩ :=
  commandOf_of_row (Layout.row_of_swp hl (.inl rfl)) rfl

theorem loads_objPFlashSwap (a : IAddr) (code : Byte) : (objPFlashSwap cfg a code).n = 4 ∧
    loadsOfSlots (objPFlashSwap cfg a code).n (objPFlashSwap cfg a code).p = controlLoads a code := by
  rw [objPFlashSwap_eq hl]
  exact ⟨rfl, rfl⟩

theorem loads_objEraseSector (a : IAddr) : (objEraseSector cfg a).n = 3 ∧
    loadsOfSlots (objEraseSector cfg a).n (objEraseSector cfg a).p = eraseLoads a := by
  rw [objEraseSector_eq hl]
  exact ⟨rfl, rfl⟩

end Objects

/-- In state `st` the command of a SWAP of `addr` is the swap-control command with `code`, so that its read-back is next
(R223, R226). -/
structure IssuesControl (cfg : Config) (addr : Addr) (st : SwpState) (code : Byte) : Prop where
  mem     : st ∈ commandStates
  after   : afterCommand st = .readMode
  command : stateCommand cfg addr st = objPFlashSwap cfg (indicatorAddr cfg addr) code

theorem query_issuesControl (cfg : Config) (addr : Addr) : IssuesControl cfg addr .query cfg.swapCode.report :=
  ⟨by decide, rfl, rfl⟩

theorem setInd_issuesControl (cfg : Config) (addr : Addr) : IssuesControl cfg addr .setInd cfg.swapCode.setInd :=
  ⟨by decide, rfl, rfl⟩

theorem setPrep_issuesControl (cfg : Config) (addr : Addr) : IssuesControl cfg addr .setPrep cfg.swapCode.setPrep :=
  ⟨by decide, rfl, rfl⟩

theorem setComp_issuesControl (cfg : Config) (addr : Addr) : IssuesControl cfg addr .setComp cfg.swapCode.setComp :=
  ⟨by decide, rfl, rfl⟩

/-- A swap-control command that succeeds with a code in FCCOB5, and its read-back (R226). -/
theorem runs_control {cfg : Config} {addr : Addr} {p : BitVec 2} {n : SwapState} {st : SwpState} {code b : Byte}
    {o : NvmOutcome} (hl : cfg.layout.ok = true) (hdebug : cfg.debugEnable = false)
    (hst : IssuesControl cfg addr st code) (ho : outcomeCode o = 0) (hret : o.ret.get 5 = some b) :
    Runs (swapCommandMoves 4 o ++ [.swp]) (controlLoads (indicatorAddr cfg addr) code) (InSwap cfg addr st p .none n)
      (AtCode cfg addr (waitOfPhase p) p
        (swapStateAfter cfg (objPFlashSwap cfg (indicatorAddr cfg addr) code).p o n) b) := by
  obtain ⟨hn, hloads⟩ := loads_objPFlashSwap hl (indicatorAddr cfg addr) code
  have hcommand := runs_command (p := p) (n := n) hdebug hst.mem ho hst.command
  rw [hn, hst.after] at hcommand
  rw [hn] at hloads
  have hrun := (hcommand.weaken fun u ⟨hu, hb⟩ => ⟨hu, hb b hret⟩).append runs_readBack
  rwa [List.append_nil, hloads] at hrun

/-! ## The nominal swap controller -/

/-- An outcome that a row of the table R240 without ACCERR allows is a success, with the row's state and byte. -/
theorem nominal_of_row {cfg : Config} {ind : IAddr} {cmd : Slots} {st : SwapState} {o : NvmOutcome} {r : NominalRow}
    (hr : nominalRow cfg ind cmd st = some r) (hacc : r.accerr = false) (h : nominal cfg ind cmd st o = true) :
    outcomeCode o = 0 ∧ swapStateAfter cfg cmd o st = r.after ∧ o.ret.get 5 = r.fccob5 := by
  simp only [nominal, hr, hacc, Bool.and_eq_true, Bool.not_eq_true', beq_iff_eq] at h
  obtain ⟨⟨⟨⟨⟨-, hacc⟩, hfp⟩, hmg⟩, hafter⟩, hret⟩ := h
  exact ⟨by simp [outcomeCode, hacc, hfp, hmg], hafter, hret⟩

/-- The swap-control commands that the table R240 lets succeed, and the swap states they lead from and to. -/
inductive ControlStep (c : SwapCodes) : Byte → SwapState → SwapState → Prop
  | report (st : SwapState) : ControlStep c c.report st st
  | setInd : ControlStep c c.setInd .uninitialized .ready
  | setPrep : ControlStep c c.setPrep .ready .update
  | setComp : ControlStep c c.setComp .updateErased .complete

section Nominal

variable {cfg : Config} {addr : Addr} {p : BitVec 2}

theorem nominalRow_objPFlashSwap (hl : cfg.layout.ok = true) (hc : cfg.swapCode.distinct = true) {code : Byte}
    {st st' : SwapState} (h : ControlStep cfg.swapCode code st st') (ind a : IAddr) :
    nominalRow cfg ind (objPFlashSwap cfg a code).p st
      = some { after := st', accerr := false, fccob5 := some (swapStateCode cfg.swapState st') } := by
  have hop : opcodeOf (objPFlashSwap cfg a code).p[0] = some .pFlashSwap :=
    opcodeOf_eq_some_iff.mpr (laidOut_opcode _ _ _)
  have hcode : fieldByte cfg.layout.pFlashSwap (objPFlashSwap cfg a code).p 3 = code :=
    fieldByte_commandOf hl .pFlashSwap (addrBytes a ++ [code]) (j := 3) (by decide)
  obtain ⟨⟨hri, hrp, hrc⟩, ⟨hip, hic⟩, hpc⟩ := SwapCodes.distinct_iff.mp hc
  simp only [nominalRow, hop, hcode]
  cases h with
  | report => simp
  | setInd => simp [Ne.symm hri]
  | setPrep => simp [Ne.symm hrp, Ne.symm hip]
  | setComp => simp [Ne.symm hrc, Ne.symm hic, Ne.symm hpc]

/-- The address an EraseSector carries. -/
theorem addrIn_objEraseSector (hl : cfg.layout.ok = true) (a : IAddr) :
    addrIn cfg .eraseSector (objEraseSector cfg a).p = a :=
  (addrIn_commandOf hl .eraseSector (addrBytes a) (by decide)).trans (address_append a)

/-- The sector SWP erases is the one that R240's erase is of: that of the indicator's counterpart (R232). -/
theorem erasesIndicator_eraseAddr (hwf : cfg.wf = true) (hl : cfg.layout.ok = true)
    (hok : swapAddrOk cfg addr = true) :
    erasesIndicator cfg (indicatorAddr cfg addr) (objEraseSector cfg (eraseAddr cfg addr)).p = true := by
  obtain ⟨hlow, hhigh, hle, hlt, hmod, heq⟩ := swapErasesTheOtherBank cfg addr hwf hok
  obtain ⟨hmax, hsec, -, -⟩ := Config.wf_pflash hwf
  obtain ⟨hbase, hbank, -⟩ := swapAddrOk_iff.mp hok
  have hind : (indicatorAddr cfg addr).toNat = addr.toNat - cfg.pflashBase.toNat :=
    (BitVec.toNat_ofNat _ _).trans (Nat.mod_eq_of_lt (by omega))
  simp only [erasesIndicator, addrIn_objEraseSector hl, heq, hind, Bool.and_eq_true, decide_eq_true_eq, beq_iff_eq,
    dflashInternal]
  refine ⟨by omega, ?_⟩
  obtain ⟨q, hq⟩ := Nat.dvd_of_mod_eq_zero hmod
  rw [hq, Nat.mul_div_cancel_left _ hsec, eq_comm, Nat.div_eq_iff hsec]
  rw [Nat.mul_comm] at hq
  omega

theorem nominalRow_eraseSector (hwf : cfg.wf = true) (hl : cfg.layout.ok = true) (hok : swapAddrOk cfg addr = true) :
    nominalRow cfg (indicatorAddr cfg addr) (objEraseSector cfg (eraseAddr cfg addr)).p .update
      = some { after := .updateErased, accerr := false, fccob5 := none } := by
  have hop : opcodeOf (objEraseSector cfg (eraseAddr cfg addr)).p[0] = some .eraseSector :=
    opcodeOf_eq_some_iff.mpr (laidOut_opcode _ _ _)
  simp [nominalRow, hop, erasesIndicator_eraseAddr hwf hl hok]

section Control

variable {st : SwpState} {code : Byte} {n n' : SwapState} {o : NvmOutcome} (hl : cfg.layout.ok = true)
  (hc : cfg.swapCode.distinct = true) (hdebug : cfg.debugEnable = false) (hst : IssuesControl cfg addr st code)
  (hstep : ControlStep cfg.swapCode code n n')
  (ho : nominal cfg (indicatorAddr cfg addr) (objPFlashSwap cfg (indicatorAddr cfg addr) code).p n o = true)
include hl hc hdebug hst hstep ho

/-- A swap-control command under the nominal controller, and its read-back (R240). -/
theorem runs_nominalControl :
    Runs (swapCommandMoves 4 o ++ [.swp]) (controlLoads (indicatorAddr cfg addr) code) (InSwap cfg addr st p .none n)
      (AtCode cfg addr (waitOfPhase p) p n' (swapStateCode cfg.swapState n')) := by
  obtain ⟨hcode, hafter, hret⟩ := nominal_of_row (nominalRow_objPFlashSwap hl hc hstep _ _) rfl ho
  have hrun := runs_control (p := p) (n := n) hl hdebug hst hcode hret
  rwa [hafter] at hrun

/-- The same command and read-back, and the wait, left at once for the code read (R230). -/
theorem runs_nominalPhase (hwait : waitOfPhase p ∈ [SwpState.waitUninit, .waitReady, .waitComp])
    (hleave : ¬keepsWaiting cfg.swapState (waitOfPhase p) (swapStateCode cfg.swapState n')) :
    Runs (swapCommandMoves 4 o ++ [.swp, .swp]) (controlLoads (indicatorAddr cfg addr) code)
      (InSwap cfg addr st p .none n) (AtCode cfg addr .dispatch p n' (swapStateCode cfg.swapState n')) := by
  have hrun := (runs_nominalControl (p := p) hl hc hdebug hst hstep ho).append (runs_leave hwait hleave)
  rwa [List.append_nil, List.append_assoc] at hrun

end Control

/-- The erase under the nominal controller (R232, R240). -/
theorem runs_nominalErase (hwf : cfg.wf = true) (hl : cfg.layout.ok = true) (hdebug : cfg.debugEnable = false)
    (hok : swapAddrOk cfg addr = true) {o : NvmOutcome}
    (ho : nominal cfg (indicatorAddr cfg addr) (objEraseSector cfg (eraseAddr cfg addr)).p .update o = true) :
    Runs (swapCommandMoves 3 o) (eraseLoads (eraseAddr cfg addr)) (InSwap cfg addr .erase p .none .update)
      (InSwap cfg addr .setComp p .none .updateErased) := by
  obtain ⟨hcode, hafter, -⟩ := nominal_of_row (nominalRow_eraseSector hwf hl hok) rfl ho
  obtain ⟨hn, hloads⟩ := loads_objEraseSector hl (eraseAddr cfg addr)
  have hrun := runs_command (addr := addr) (p := p) (n := .update) hdebug (st := .erase) (by decide) hcode
    (k := objEraseSector cfg (eraseAddr cfg addr)) rfl
  rw [hafter, hn] at hrun
  rw [hn] at hloads
  rw [hloads] at hrun
  exact hrun.weaken fun _ hu => hu.1

end Nominal

/-! ## A SWAP that succeeds -/

/-- SWP, called to dispatch with no phase left to run, ends the SWAP with Success (R229, R233). -/
theorem swpStep_finishes {cfg : Config} {addr : Addr} {p : BitVec 2} {n : SwapState} {m : Byte} {s : State}
    (hs : AtCode cfg addr .dispatch p n m s) (hend : dispatchTarget cfg.swapState p m = none) :
    swpStep s = .next (swpFinish 0 s) := by
  obtain ⟨hs, hmode⟩ := hs
  rw [swpStep_dispatch hs.running hs.state, swpDispatch_finishes (by rw [hs.config, hs.phase, hmode, hend])]
  rfl

/-- The place of SWP as it has accepted a SWAP. -/
theorem acceptSwap_inSwap {s : State} {n : SwapState} (addr : Addr) (hopen : swapOpen s = true)
    (hseq : s.seq.halted = false) (hc : s.ccif = true) (hb : s.nvm.busy = false) (hn : s.nvm.swapState = n) :
    InSwap s.cfg addr .check s.swp.phase s.swp.call n (acceptSwap addr s) := by
  obtain ⟨-, -, hhalt, hidle⟩ := swapOpen_iff.mp hopen
  exact ⟨rfl, rfl, rfl, rfl, rfl, hhalt, hidle, hseq, hc, hb, hn⟩

/-- A SWAP that runs from its check to a dispatch with no phase left to run, and then takes one more step, ends with
Success. -/
theorem swap_succeeds {s : State} {addr : Addr} {p : BitVec 2} {n₀ n : SwapState} {m : Byte} {ms : List Move}
    {l : List (Slot × Byte)} {ins : List Input} (hopen : swapOpen s = true) (hseq : s.seq.halted = false)
    (hc : s.ccif = true) (hb : s.nvm.busy = false) (hst : s.nvm.swapState = n₀)
    (hrun : Runs ms l (InSwap s.cfg addr .check s.swp.phase s.swp.call n₀)
      (AtCode s.cfg addr .dispatch p n m))
    (hend : dispatchTarget s.cfg.swapState p m = none) (hm : makes ins (ms ++ [.swp])) :
    ∃ t u h, exec (.swap addr) s = .next t ∧ runInputs ins t = .next u ∧ u.swp.state = .idle ∧
      u.swp.result = 0x0000 ∧ u.swp.addr = addr ∧ u.swp.mode = m ∧ u.req.call = .done 0x0000 ∧
      u.seq.state = .idle ∧ u.nvm.swapState = n ∧ u.history = h ++ s.history ∧ .done .swp .host 0x0000 ∈ h ∧
      loads h = l := by
  obtain ⟨i, i', rfl, hi, hi'⟩ := makes_append.mp hm
  obtain ⟨u, a, hrun, hu, ⟨h, hh, rfl⟩, hloads⟩ := hrun _ i (acceptSwap_inSwap addr hopen hseq hc hb hst) hi
  obtain ⟨rsv, last⟩ := runInputs_of_makes_singleton hi'
  have hu := hu.floatFstat rsv
  have hfinish := (runInputs_append_next hrun).trans ((last u).trans (swpStep_finishes hu hend))
  obtain ⟨hu, hmode⟩ := hu
  refine ⟨_, _, finishEvents (floatFstat rsv u).cfg.debugEnable 0 ++ h, exec_swap_open hopen, hfinish, ?_⟩
  rw [swpFinish_swp, swpFinish_req, swpFinish_seq, swpFinish_nvm, swpFinish_history]
  refine ⟨rfl, rfl, hu.address, hmode, rfl, hu.seqIdle, hu.swapState, ?_,
    List.mem_append_left _ (done_mem_finishEvents _ _), ?_⟩
  · rw [List.append_assoc]
    exact congrArg _ hh
  · rw [loads_eq, accesses_append, accesses_finishEvents, List.append_nil, hloads]

/-- Settles O45: after the report no phase's guard holds. -/
theorem swapWithNothingToDoSucceeds : Obligations.SwapWithNothingToDoSucceeds := by
  intro s addr m o ins st ia hopen hseq hc hb hdebug hl hok hm ho hret hmoves
  have hrun := (runs_check (p := s.swp.phase) (n := s.nvm.swapState) (c := s.swp.call) hok).append
    (runs_control hl hdebug (query_issuesControl _ _) ho hret)
  obtain ⟨t, u, h, hexec, hins, hidle, hresult, -, hmode, hcall, -, -, hhist, -, hloads⟩ :=
    swap_succeeds hopen hseq hc hb rfl hrun (dispatchTarget_other hm 0) (ins := ins) (by simpa using hmoves)
  exact ⟨t, u, h, hexec, hins, hidle, hresult, hmode, hcall, hhist, hloads⟩

/-- What `Config.wf` says of the swap codes and of P_LAYOUT (logs 22, 45). -/
theorem Config.wf_swap {c : Config} (h : c.wf = true) :
    c.swapCode.distinct = true ∧ c.swapState.distinct = true ∧ c.layout.ok = true := by
  simp only [Config.wf, Bool.and_eq_true] at h
  obtain ⟨⟨⟨-, hcodes⟩, hstates⟩, hl⟩ := h
  exact ⟨hcodes, hstates, hl⟩

/-- The code of the next swap state ends each wait (R230, R231). -/
theorem not_keepsWaiting_next {c : SwapStateCodes} (h : c.distinct = true) :
    ¬keepsWaiting c .waitUninit c.ready ∧ ¬keepsWaiting c .waitReady c.update ∧
      ¬keepsWaiting c .waitComp c.complete := by
  simp only [SwapStateCodes.distinct, decide_eq_true_eq, List.nodup_cons, List.mem_cons, not_or] at h
  obtain ⟨⟨hready, -⟩, ⟨hupdate, -⟩, -⟩ := h
  exact ⟨by simp [keepsWaiting, Ne.symm hready], by simp [keepsWaiting, Ne.symm hupdate], by simp [keepsWaiting]⟩

/-- Settles O44: the report, then the three phases in order, each entered by its guard and left by its code. -/
theorem swapDrivesToComplete : Obligations.SwapDrivesToComplete := by
  intro s addr oReport oInd oPrep oErase oComp ins c ia e control allows hopen hseq hc hb hwf hdebug hok hst
    hReport hInd hPrep hErase hComp hmoves
  obtain ⟨hcodes, hstates, hl⟩ := Config.wf_swap hwf
  obtain ⟨hready, hupdate, hcomplete⟩ := not_keepsWaiting_next hstates
  have report := (runs_check (p := s.swp.phase) (n := .uninitialized) (c := s.swp.call) hok).append
    (runs_nominalControl hl hcodes hdebug (query_issuesControl _ _) (.report _) hReport)
  have phase1 := (runs_dispatch (dispatchTarget_uninit _)).append
    (runs_nominalPhase hl hcodes hdebug (setInd_issuesControl _ _) .setInd hInd (by decide) hready)
  have phase2 := (runs_dispatch (dispatchTarget_ready _)).append
    (runs_nominalPhase hl hcodes hdebug (setPrep_issuesControl _ _) .setPrep hPrep (by decide) hupdate)
  have phase3 := (runs_dispatch (dispatchTarget_update _)).append ((runs_nominalErase hwf hl hdebug hok hErase).append
    (runs_nominalPhase hl hcodes hdebug (setComp_issuesControl _ _) .setComp hComp (by decide) hcomplete))
  have hrun := report.append (phase1.append (phase2.append phase3))
  obtain ⟨t, u, h, hexec, hins, hidle, hresult, haddr, hmode, hcall, hseq', hswap, hhist, hdone, hloads⟩ :=
    swap_succeeds hopen hseq hc hb hst hrun (dispatchTarget_last _ _) (ins := ins) (by simpa [swapMoves] using hmoves)
  refine ⟨t, u, h, hexec, hins, hidle, hresult, haddr, hmode, hcall, hseq', hswap, hhist, hdone, hloads.trans ?_⟩
  simp [control, controlLoads, eraseLoads, ia, e, c]

end Sys2Proof.Machine
end

section
/-! PROOFS. The address translation as a map (43_requester_interface.md R262, R263, R265): each region onto its internal
addresses, what lies in neither region is a range error, and an internal address has one system address. -/

namespace Sys2Proof.Machine

/-- What `Config.wf` says of the sizes of the two flash regions (R11). -/
theorem Config.wf_sizes {c : Config} (h : c.wf = true) :
    c.pflashSize.toNat ≤ 0x800000 ∧ c.dflashSize.toNat ≤ 0x800000 := by
  simp only [Config.wf, Bool.and_eq_true, decide_eq_true_eq] at h
  omega

/-- A request of a form that tests the start address, or with a nonzero size, starts inside the region it is in (R263). -/
theorem inBlock_start {f : BoundForm} {base bsize dest size : Nat} (hf : f = .verify ∨ 0 < size)
    (h : inBlock f base bsize dest size = true) : base ≤ dest ∧ dest < base + bsize := by
  cases f with
  | verify => simpa [inBlock] using h
  | progErase =>
    have hsize : 0 < size := hf.resolve_left nofun
    simp only [inBlock, Bool.and_eq_true, decide_eq_true_eq] at h
    omega

section Translate

variable {cfg : Config} {f : BoundForm} {size k x : Nat}

/-- P-Flash maps to its offsets (R262). -/
theorem translate_pflash (h : inPFlash cfg f (cfg.pflashBase.toNat + k) size = true) :
    translate cfg f (cfg.pflashBase.toNat + k) size = some k := by
  simp [translate, h]

/-- D-Flash maps to 0x800000 on, where P-Flash does not hold the request (R262). -/
theorem translate_dflash (hp : inPFlash cfg f (cfg.dflashBase.toNat + k) size = false)
    (hd : inDFlash cfg f (cfg.dflashBase.toNat + k) size = true) :
    translate cfg f (cfg.dflashBase.toNat + k) size = some (0x800000 + k) := by
  rw [Nat.add_comm 0x800000]
  simp [translate, hp, hd]

/-- An internal address is an offset in P-Flash, or one in D-Flash from 0x800000 on. -/
theorem translate_eq_some {dest : Nat} (hf : f = .verify ∨ 0 < size) (h : translate cfg f dest size = some x) :
    (dest = cfg.pflashBase.toNat + x ∧ x < cfg.pflashSize.toNat) ∨
      (dest + 0x800000 = cfg.dflashBase.toNat + x ∧ 0x800000 ≤ x ∧ x < 0x800000 + cfg.dflashSize.toNat) := by
  unfold translate at h
  split at h
  next hp =>
    have := inBlock_start hf hp
    cases h
    omega
  next =>
    split at h
    next hd =>
      have := inBlock_start hf hd
      cases h
      omega
    next => cases h

/-- The regions do not meet in the internal address space, so an internal address has one system address (R265). -/
theorem translate_injective (hwf : cfg.wf = true) (hf : f = .verify ∨ 0 < size) (d1 d2 x : Nat)
    (h1 : translate cfg f d1 size = some x) (h2 : translate cfg f d2 size = some x) : d1 = d2 := by
  obtain ⟨hp, -⟩ := Config.wf_sizes hwf
  have := translate_eq_some hf h1
  have := translate_eq_some hf h2
  omega

/-- Internal addresses have 24 bits (R90, R265). -/
theorem translate_lt (hwf : cfg.wf = true) (hf : f = .verify ∨ 0 < size) (dest x : Nat)
    (h : translate cfg f dest size = some x) : x < 2 ^ 24 := by
  obtain ⟨hp, hd⟩ := Config.wf_sizes hwf
  have := translate_eq_some hf h
  omega

end Translate

/-- Settles O50: the three outcomes of the region tests, in both forms, and the map's inverse. -/
theorem translationLaws : Obligations.TranslationLaws := by
  intro cfg size hwf
  refine ⟨fun hsize => ⟨fun k hk => translate_pflash ?_, fun k hk hp => translate_dflash ?_ ?_,
      fun dest hp hd => translate_eq_none ?_, translate_injective hwf (.inr hsize), translate_lt hwf (.inr hsize)⟩,
    fun k hk => translate_pflash ?_, fun k hk hp => translate_dflash ?_ ?_,
    fun dest hp hd => translate_eq_none ?_, translate_injective hwf (.inl rfl), translate_lt hwf (.inl rfl)⟩
  · rw [inPFlash_progErase, endsInP, decide_eq_true_eq]
    omega
  · rwa [inPFlash_progErase]
  · rw [inDFlash_progErase, endsInD, decide_eq_true_eq]
    omega
  · rw [inPFlash_progErase, inDFlash_progErase, hp, hd, Bool.or_self]
  · rw [inPFlash_verify, startsInP, decide_eq_true_eq]
    omega
  · rwa [inPFlash_verify]
  · rw [inDFlash_verify, startsInD, decide_eq_true_eq]
    omega
  · rw [inPFlash_verify, inDFlash_verify, hp, hd, Bool.or_self]

end Sys2Proof.Machine
end
section
/-! PROOFS. ProgramCheck's failure and FlashSecurityBypass (43_requester_interface.md R268, R285), and what is refused by name
(R287, R325, R332). -/

namespace Sys2Proof.Machine

/-! ## ProgramCheck -/

/-- Settles O54: the failing command starts the read-back of the failing data, which the return carries. -/
theorem programCheckReportsTheFailure : Obligations.ProgramCheckReportsTheFailure := by
  intro s dest k i t r ins hctl hcall hr hm
  obtain ⟨rsv, rest, hrest, run⟩ := runInputs_of_makes_go hm
  have hgo := hostGo_failed (s := floatFstat rsv s) hctl hcall hr
  obtain ⟨u, hrun, hu⟩ := runInputs_readBack (goal := .check dest) nofun s.cfg.failDataSlots
    (s := hostFailed (.check dest) k r (floatFstat rsv s)) rfl hrest
  exact ⟨u, (run _ _ hgo).trans hrun, hu.idle, hu.returned, hu.seq, hu.fccob⟩

/-! ## FlashSecurityBypass -/

theorem hostGo_bypass_unsecured {s : State} {key : Vector Byte 8} (h : s.req.ctl = .bypass key)
    (hsec : s.win.fsec &&& s.cfg.unsecureMask = s.cfg.unsecureValue) :
    hostGo s = .next (hostReturnCode codeSuccess (logRead .host .fsec s)) := by
  simp only [hostGo, h, if_pos hsec]

theorem hostGo_bypass_command {s : State} {key : Vector Byte 8} (h : s.req.ctl = .bypass key)
    (hsec : s.win.fsec &&& s.cfg.unsecureMask ≠ s.cfg.unsecureValue) :
    hostGo s = .next (hostGoto (.commands .plain 0 [.securityBypass key]) (logRead .host .fsec s)) := by
  simp only [hostGo, h, if_neg hsec, hostCommands]

/-- Settles O59: the two outcomes of the read of FSEC. -/
theorem securityBypassReadsFsecFirst : Obligations.SecurityBypassReadsFsecFirst := by
  intro s key cap ins hidle hm
  obtain ⟨rsv, rest, hrest, run⟩ := runInputs_of_makes_cons hm
  obtain ⟨rsv', last⟩ := runInputs_of_makes_last_go hrest
  have hrun := (run _ _ (stepInput_call rsv hidle)).trans (last _)
  by_cases hsec : s.win.fsec &&& s.cfg.unsecureMask = s.cfg.unsecureValue
  · exact ⟨_, [_, _], hrun.trans (hostGo_bypass_unsecured rfl hsec), rfl, rfl, rfl, rfl,
      fun _ => ⟨rfl, rfl⟩, fun hne => absurd hsec hne⟩
  · exact ⟨_, [_], hrun.trans (hostGo_bypass_command rfl hsec), rfl, rfl, rfl, rfl,
      fun h => absurd h hsec, fun _ => rfl⟩

/-! ## Refusals -/

/-- Something is in operation: an FSM or the controller (R332; log 32). -/
theorem State.quiet_eq_false {s : State} (h : s.seq.state ≠ .idle ∨ s.swp.state ≠ .idle ∨ s.nvm.busy = true) :
    s.quiet = false := by
  obtain h | h | h := h <;> simp [State.quiet, h]

theorem resetStep_refuses {s : State} (l : Launch) (h : s.quiet = false) :
    resetStep l s = .refused .refuseResetInFlight := by
  simp [resetStep, h]

theorem lowPowerStep_refuses {s : State} (h : s.quiet = false) : lowPowerStep s = .refused .refuseLowPower := by
  simp [lowPowerStep, h]

/-- Settles O34: a procedure without a protocol is refused as it is called, and a reset or a low-power entry where the
block is not quiet. -/
theorem undescribedRequestsAreRefused : Obligations.UndescribedRequestsAreRefused := by
  intro s rsv cap l
  refine ⟨fun hidle => ⟨stepInput_call rsv hidle, stepInput_call rsv hidle, stepInput_call rsv hidle⟩, fun h => ?_⟩
  have hquiet : (floatFstat rsv s).quiet = false := State.quiet_eq_false h
  exact ⟨resetStep_refuses l hquiet, lowPowerStep_refuses hquiet⟩

end Sys2Proof.Machine
end

section
/-! PROOFS. The protection setters (43_requester_interface.md R275-R281): a setter reads the old value, probes it with all
ones, reads the probe back and decides; its run is put together from its reads and writes. -/

namespace Sys2Proof.Machine

/-! ## The places of a setter -/

/-- HOST is at `c` in a setter called in `s₀`: CCIF is set, and each register but FSTAT holds `held`. -/
structure InSetter (s₀ : State) (held : Reg → Byte) (c : ReqCtl) (s : State) : Prop where
  ctl  : s.req.ctl = c
  held : ∀ r, r ≠ .fstat → readReg s r = held r
  ccif : s.ccif = true
  seq  : s.seq = s₀.seq
  swp  : s.swp = s₀.swp
  nvm  : s.nvm = s₀.nvm

/-- The setter called in `s₀` has returned `code`. -/
structure SetterEnds (s₀ : State) (held : Reg → Byte) (code : Code) (s : State) : Prop where
  idle : InSetter s₀ held .idle s
  code : s.req.ret.code = code

/-- What the registers hold after a write of `v r` to each register `r` of a list (R41). -/
def afterWrites (m : ProtMode) (regs : List Reg) (v held : Reg → Byte) (r : Reg) : Byte :=
  if r ∈ regs then protValue m (held r) (v r) else held r

theorem afterWrites_nil (m : ProtMode) (v held : Reg → Byte) : afterWrites m [] v held = held := by
  funext r
  simp [afterWrites]

theorem afterWrites_cons (m : ProtMode) {r : Reg} {regs : List Reg} (h : r ∉ regs) (v held : Reg → Byte) :
    afterWrites m regs v (afterWrites m [r] v held) = afterWrites m (r :: regs) v held := by
  funext q
  by_cases hq : q = r
  · subst hq
    simp [afterWrites, h]
  · simp [afterWrites, hq]

theorem IsProtection.ne_fstat {r : Reg} (h : IsProtection r) : r ≠ .fstat := by
  obtain rfl | rfl | ⟨i, rfl⟩ := h <;> nofun

theorem State.serving_congr {s t : State} (hseq : t.seq = s.seq) (hswp : t.swp = s.swp) : t.serving = s.serving := by
  simp only [State.serving, hseq, hswp]

section Places

variable {s₀ s : State} {held : Reg → Byte} {c c' : ReqCtl}

theorem InSetter.floatFstat (h : InSetter s₀ held c s) (rsv : BitVec 3) : InSetter s₀ held c (floatFstat rsv s) where
  ctl := h.ctl
  held r hr := by
    rw [← h.held r hr]
    cases r with
    | fstat => exact absurd rfl hr
    | _ => rfl
  ccif := by simpa using h.ccif
  seq := h.seq
  swp := h.swp
  nvm := h.nvm

theorem InSetter.goto (h : InSetter s₀ held c s) : InSetter s₀ held c' (hostGoto c' s) :=
  ⟨rfl, h.held, h.ccif, h.seq, h.swp, h.nvm⟩

theorem InSetter.logRead (h : InSetter s₀ held c s) (r : Reg) : InSetter s₀ held c (logRead .host r s) :=
  ⟨h.ctl, h.held, h.ccif, h.seq, h.swp, h.nvm⟩

theorem InSetter.returnCode (h : InSetter s₀ held c s) (code : Code) :
    SetterEnds s₀ held code (hostReturnCode code s) :=
  ⟨⟨rfl, h.held, h.ccif, h.seq, h.swp, h.nvm⟩, rfl⟩

/-- A write of a protection register while nothing is served. -/
theorem InSetter.hostWrite (h : InSetter s₀ held c s) (hfree : s₀.serving = false) {r : Reg} (hr : IsProtection r)
    (v : Reg → Byte) : ∃ t, hostWrite r (v r) s = .next t ∧
      InSetter s₀ (afterWrites s₀.nvm.protMode [r] v held) c t ∧ Made [.write r (v r)] s t := by
  obtain ⟨t, ht, hstored, hkept, heq⟩ :=
    hostWrite_prot_stores (v := v r) hr h.ccif ((State.serving_congr h.seq h.swp).trans hfree)
  have hccif : t.ccif = s.ccif := congrArg Machine.ccif (hkept .fstat hr.ne_fstat.symm)
  refine ⟨t, ht, ⟨(congrArg (·.req.ctl) heq).trans h.ctl, fun q hq => ?_, hccif.trans h.ccif,
    (congrArg State.seq heq).trans h.seq, (congrArg State.swp heq).trans h.swp, (congrArg State.nvm heq).trans h.nvm⟩,
    ⟨[_], congrArg State.history heq, rfl⟩⟩
  by_cases hqr : q = r
  · subst hqr
    simp [afterWrites, hstored, h.nvm, h.held q hq]
  · simp [afterWrites, hqr, hkept q hqr, h.held q hq]

end Places

/-! ## Steps and loops of a setter -/

/-- HOST goes on `n` times, loads nothing into FCCOB, and comes from `P` to `Q`. -/
def Goes (n : Nat) (P Q : State → Prop) : Prop := Runs (List.replicate n (.host .go)) [] P Q

theorem Goes.refl (P : State → Prop) : Goes 0 P P := by
  intro s ins hs hm
  obtain rfl := makes_nil.mp hm
  exact ⟨s, [], rfl, hs, ⟨[], rfl, rfl⟩, rfl⟩

theorem Goes.trans {m n : Nat} {P Q R : State → Prop} (h : Goes m P Q) (h' : Goes n Q R) : Goes (m + n) P R := by
  unfold Goes
  rw [← List.replicate_append_replicate]
  exact Runs.append h h'

section Steps

variable {s₀ : State} {held : Reg → Byte} {c c' : ReqCtl}

theorem goes_step {Q : State → Prop} {a : List Access} (hload : a.filterMap Access.load = [])
    (h : ∀ s, InSetter s₀ held c s → ∃ u, hostGo s = .next u ∧ Q u ∧ Made a s u) :
    Goes 1 (InSetter s₀ held c) Q := by
  intro s ins hs hm
  obtain ⟨rsv, last⟩ := runInputs_of_makes_last_go hm
  obtain ⟨u, hgo, hu, hmade⟩ := h _ (hs.floatFstat rsv)
  exact ⟨u, a, (last s).trans hgo, hu, hmade, hload⟩

theorem goes_goto (hgo : ∀ s, s.req.ctl = c → hostGo s = .next (hostGoto c' s)) :
    Goes 1 (InSetter s₀ held c) (InSetter s₀ held c') :=
  goes_step rfl fun s hs => ⟨_, hgo s hs.ctl, hs.goto, ⟨[], rfl, rfl⟩⟩

theorem goes_returnCode {code : Code} (hgo : ∀ s, s.req.ctl = c → hostGo s = .next (hostReturnCode code s)) :
    Goes 1 (InSetter s₀ held c) (SetterEnds s₀ held code) :=
  goes_step rfl fun s hs => ⟨_, hgo s hs.ctl, hs.returnCode code, ⟨[_], rfl, rfl⟩⟩

/-- A loop of reads, which gathers what it reads. -/
theorem goes_reads {c : List Reg → List Byte → ReqCtl} (hgo : ∀ s r t got, s.req.ctl = c (r :: t) got →
      hostGo s = .next (hostGoto (c t (got ++ [readReg s r])) (logRead .host r s))) :
    ∀ (todo : List Reg) (got : List Byte), (∀ r ∈ todo, r ≠ .fstat) →
    Goes todo.length (InSetter s₀ held (c todo got)) (InSetter s₀ held (c [] (got ++ todo.map held)))
  | [], got, _ => by
    rw [List.map_nil, List.append_nil]
    exact .refl _
  | r :: todo, got, hne => by
    obtain ⟨hr, hne⟩ := List.forall_mem_cons.mp hne
    have first : Goes 1 (InSetter s₀ held (c (r :: todo) got)) (InSetter s₀ held (c todo (got ++ [held r]))) :=
      goes_step (a := [.read r]) rfl fun s hs =>
        ⟨_, hs.held r hr ▸ hgo s r todo got hs.ctl, (hs.logRead r).goto, ⟨[_], rfl, rfl⟩⟩
    have rest := goes_reads hgo todo (got ++ [held r]) hne
    rw [List.append_assoc] at rest
    rw [List.length_cons, Nat.add_comm]
    exact first.trans rest

/-- A loop of writes of protection registers. -/
theorem goes_writes (hfree : s₀.serving = false) {c : List Reg → ReqCtl} {v : Reg → Byte}
    (hgo : ∀ s r t, s.req.ctl = c (r :: t) → hostGo s = hostAfterWrite (hostWrite r (v r) s) (hostGoto (c t))) :
    ∀ (todo : List Reg) (held : Reg → Byte), todo.Nodup → (∀ r ∈ todo, IsProtection r) →
    Goes todo.length (InSetter s₀ held (c todo)) (InSetter s₀ (afterWrites s₀.nvm.protMode todo v held) (c []))
  | [], held, _, _ => by
    rw [afterWrites_nil]
    exact .refl _
  | r :: todo, held, hnodup, hprot => by
    obtain ⟨hr, hnodup⟩ := List.nodup_cons.mp hnodup
    obtain ⟨hpr, hprot⟩ := List.forall_mem_cons.mp hprot
    have first : Goes 1 (InSetter s₀ held (c (r :: todo)))
        (InSetter s₀ (afterWrites s₀.nvm.protMode [r] v held) (c todo)) :=
      goes_step (a := [.write r (v r)]) (by obtain rfl | rfl | ⟨i, rfl⟩ := hpr <;> rfl) fun s hs => by
        obtain ⟨t, ht, hat, hmade⟩ := hs.hostWrite hfree hpr v
        exact ⟨_, (hgo s r todo hs.ctl).trans (congrArg (hostAfterWrite · _) ht), hat.goto, hmade⟩
    have rest := goes_writes hfree hgo todo (afterWrites s₀.nvm.protMode [r] v held) hnodup hprot
    rw [afterWrites_cons _ hr] at rest
    rw [List.length_cons, Nat.add_comm]
    exact first.trans rest

/-- A setter that has returned stays so. -/
theorem goes_ended {code : Code} : ∀ n, Goes n (SetterEnds s₀ held code) (SetterEnds s₀ held code)
  | 0 => .refl _
  | n + 1 => by
    intro s ins hs hm
    obtain ⟨rsv, rest, hrest, run⟩ := runInputs_of_makes_go hm
    obtain ⟨u, a, hrun, hu⟩ := goes_ended n (floatFstat rsv s) rest ⟨hs.idle.floatFstat rsv, hs.code⟩ hrest
    exact ⟨u, a, (run _ _ (hostGo_idle hs.idle.ctl)).trans hrun, hu⟩

end Steps

section HostGo

variable {s : State} {regs todo : List Reg} {r : Reg} {new old probe : List Byte} {b : Byte}

theorem hostGo_protStatus (h : s.req.ctl = .protStatus regs new) (hc : s.ccif = true) :
    hostGo s = .next (hostGoto (.protOld regs new regs []) (logRead .host .fstat s)) := by
  simp only [hostGo, h, hc, if_true]

/-- While a command is in flight the setter refuses after its read of FSTAT (R277). -/
theorem hostGo_protStatus_refused (h : s.req.ctl = .protStatus regs new) (hc : s.ccif = false) :
    hostGo s = .next (hostReturnCode codeChangeProtection (logRead .host .fstat s)) := by
  simp only [hostGo, h, hc, Bool.false_eq_true, if_false]

theorem hostGo_protOld (h : s.req.ctl = .protOld regs new (r :: todo) old) :
    hostGo s = .next (hostGoto (.protOld regs new todo (old ++ [readReg s r])) (logRead .host r s)) := by
  simp only [hostGo, h]

theorem hostGo_protOld_end (h : s.req.ctl = .protOld regs new [] old) :
    hostGo s = .next (hostGoto (.protProbe regs new old regs) s) := by
  simp only [hostGo, h]

theorem hostGo_protProbe (h : s.req.ctl = .protProbe regs new old (r :: todo)) :
    hostGo s = hostAfterWrite (hostWrite r 0xFF s) (hostGoto (.protProbe regs new old todo)) := by
  simp only [hostGo, h]

theorem hostGo_protProbe_end (h : s.req.ctl = .protProbe regs new old []) :
    hostGo s = .next (hostGoto (.protReadback regs new old regs []) s) := by
  simp only [hostGo, h]

theorem hostGo_protReadback (h : s.req.ctl = .protReadback regs new old (r :: todo) probe) :
    hostGo s = .next (hostGoto (.protReadback regs new old todo (probe ++ [readReg s r])) (logRead .host r s)) := by
  simp only [hostGo, h]

theorem hostGo_protReadback_end (h : s.req.ctl = .protReadback regs new old [] probe) :
    hostGo s = .next (protDecide regs new old probe s) := by
  simp only [hostGo, h]

theorem hostGo_protWrite (h : s.req.ctl = .protWrite (r :: todo) (b :: new)) :
    hostGo s = hostAfterWrite (hostWrite r b s) (hostGoto (.protWrite todo new)) := by
  simp only [hostGo, h]

theorem hostGo_protWrite_end (h : s.req.ctl = .protWrite [] []) :
    hostGo s = .next (hostReturnCode codeSuccess s) := by
  simp only [hostGo, h]

end HostGo

/-! ## The rule -/

/-- The rule of R276-R280: special mode, or no 1 bit of the new value that is a 0 bit of the old one. -/
def SetterAllows (m : ProtMode) (regs : List Reg) (v old : Reg → Byte) : Prop :=
  m = .special ∨ ∀ r ∈ regs, (v r ^^^ old r) &&& v r = 0

/-- The probe's value, all ones (R278). -/
def onesProbe (_ : Reg) : Byte := 0xFF

theorem protValue_normal_ones (old : Byte) : protValue .normal old 0xFF = old := BitVec.and_allOnes

/-- A new value without a new 1 bit is what the AND of normal mode stores (R41, R279). -/
theorem and_eq_of_xor_and_eq_zero {old new : Byte} (h : (new ^^^ old) &&& new = 0) : old &&& new = new := by
  refine BitVec.eq_of_getElem_eq fun i hi => ?_
  have hbit : ((new ^^^ old) &&& new)[i] = false := by rw [h]; exact BitVec.getElem_zero hi
  rw [BitVec.getElem_and, BitVec.getElem_xor] at hbit
  rw [BitVec.getElem_and]
  cases hn : new[i] <;> simp_all

theorem xor_ones_and_self (b : Byte) : (b ^^^ 0xFF) &&& b = 0 := by
  rw [show (0xFF : Byte) = BitVec.allOnes 8 from rfl, BitVec.xor_allOnes, BitVec.and_comm]
  simp

theorem isSubset_map_iff (regs : List Reg) (v old : Reg → Byte) :
    isSubset (regs.map v) (regs.map old) = true ↔ ∀ r ∈ regs, (v r ^^^ old r) &&& v r = 0 := by
  simp [isSubset, List.zip_map']

theorem allOnes_map_iff (regs : List Reg) (w : Reg → Byte) :
    allOnes (regs.map w) = true ↔ ∀ r ∈ regs, w r = 0xFF := by
  simp [allOnes]

section Rule

variable {m : ProtMode} {regs : List Reg} {v old : Reg → Byte}

theorem afterWrites_normal_ones : afterWrites .normal regs onesProbe old = old := by
  funext r
  simp only [afterWrites, onesProbe, protValue_normal_ones, ite_self]

/-- The probe tells the modes apart but where the old value is all ones, and there every new value is allowed (R278). -/
theorem probe_decides :
    (allOnes (regs.map (afterWrites m regs onesProbe old)) || isSubset (regs.map v) (regs.map old)) = true ↔
      SetterAllows m regs v old := by
  rw [Bool.or_eq_true, allOnes_map_iff, isSubset_map_iff]
  cases m with
  | special =>
    refine iff_of_true (.inl fun r hr => ?_) (.inl rfl)
    exact if_pos hr
  | normal =>
    rw [afterWrites_normal_ones]
    refine ⟨fun h => .inr (h.elim (fun hones r hr => ?_) id), fun h => .inr (h.resolve_left nofun)⟩
    rw [hones r hr]
    exact xor_ones_and_self (v r)

/-- An allowed new value is what its writes leave after the probe. -/
theorem afterWrites_allowed (h : SetterAllows m regs v old) :
    afterWrites m regs v (afterWrites m regs onesProbe old) = fun r => if r ∈ regs then v r else old r := by
  funext r
  by_cases hr : r ∈ regs
  · cases m with
    | special => simp [afterWrites, hr, protValue]
    | normal =>
      rw [afterWrites_normal_ones, afterWrites, if_pos hr, if_pos hr]
      exact and_eq_of_xor_and_eq_zero (h.resolve_left nofun r hr)
  · simp [afterWrites, hr]

/-- A refusal is one in normal mode, where the probe leaves the old value. -/
theorem afterWrites_refused (h : ¬SetterAllows m regs v old) : afterWrites m regs onesProbe old = old := by
  cases m with
  | special => exact absurd (.inl rfl) h
  | normal => exact afterWrites_normal_ones

end Rule

/-! ## A setter from its call to its return -/

section Setter

variable {s₀ : State} {regs : List Reg} {v held : Reg → Byte}

/-- The setter reads the old value, writes the probe and reads it back (R277, R278). -/
theorem goes_probe (new : List Byte) (hfree : s₀.serving = false) (hnodup : regs.Nodup)
    (hprot : ∀ r ∈ regs, IsProtection r) :
    Goes (3 * regs.length + 3) (InSetter s₀ held (.protStatus regs new))
      (InSetter s₀ (afterWrites s₀.nvm.protMode regs onesProbe held) (.protReadback regs new (regs.map held) []
        (regs.map (afterWrites s₀.nvm.protMode regs onesProbe held)))) := by
  have hne : ∀ r ∈ regs, r ≠ .fstat := fun r hr => (hprot r hr).ne_fstat
  have status : Goes 1 (InSetter s₀ held (.protStatus regs new)) (InSetter s₀ held (.protOld regs new regs [])) :=
    goes_step (a := [.read .fstat]) rfl fun s hs =>
      ⟨_, hostGo_protStatus hs.ctl hs.ccif, (hs.logRead _).goto, ⟨[_], rfl, rfl⟩⟩
  have readOld := (status.trans (goes_reads (fun _ _ _ _ => hostGo_protOld) regs [] hne)).trans
    (goes_goto fun _ => hostGo_protOld_end)
  have probe := (readOld.trans (goes_writes (v := onesProbe) hfree (fun _ _ _ => hostGo_protProbe) regs held hnodup
    hprot)).trans (goes_goto fun _ => hostGo_protProbe_end)
  have readBack := probe.trans (goes_reads (fun _ _ _ _ => hostGo_protReadback) regs [] hne)
  have hlen : 1 + regs.length + 1 + regs.length + 1 + regs.length = 3 * regs.length + 3 := by omega
  exact hlen ▸ readBack

/-- Where the rule allows the new value, the setter writes it and returns Success (R279, R280). -/
theorem goes_allowed {probe : List Byte} {w : Reg → Byte} (hfree : s₀.serving = false) (hnodup : regs.Nodup)
    (hprot : ∀ r ∈ regs, IsProtection r)
    (h : (allOnes probe || isSubset (regs.map v) (regs.map held)) = true) :
    Goes (regs.length + 2) (InSetter s₀ w (.protReadback regs (regs.map v) (regs.map held) [] probe))
      (SetterEnds s₀ (afterWrites s₀.nvm.protMode regs v w) 0) := by
  have decides : Goes 1 (InSetter s₀ w (.protReadback regs (regs.map v) (regs.map held) [] probe))
      (InSetter s₀ w (.protWrite regs (regs.map v))) :=
    goes_goto fun s hs => by rw [hostGo_protReadback_end hs, protDecide, if_pos h]
  have writes := decides.trans (goes_writes (c := fun t => .protWrite t (t.map v)) hfree
    (fun _ _ _ => hostGo_protWrite) regs w hnodup hprot)
  have hlen : 1 + regs.length + 1 = regs.length + 2 := by omega
  exact hlen ▸ writes.trans (goes_returnCode fun _ => hostGo_protWrite_end)

/-- Where it does not, the setter returns ChangeProtectionError (R279). -/
theorem goes_refused {new old probe : List Byte} (n : Nat) (h : ¬(allOnes probe || isSubset new old) = true) :
    Goes (n + 1) (InSetter s₀ held (.protReadback regs new old [] probe)) (SetterEnds s₀ held 0x20) := by
  rw [Nat.add_comm]
  exact (goes_returnCode fun s hs => by rw [hostGo_protReadback_end hs, protDecide, if_neg h]; rfl).trans
    (goes_ended n)

/-- The end of a setter of `v` called in `s`: the code of the rule, and the new value or the old one. -/
structure SetterDone (regs : List Reg) (v : Reg → Byte) (s u : State) : Prop where
  allowed : SetterAllows s.nvm.protMode regs v (readReg s) →
    SetterEnds s (fun r => if r ∈ regs then v r else readReg s r) 0 u
  refused : ¬SetterAllows s.nvm.protMode regs v (readReg s) → SetterEnds s (readReg s) 0x20 u

/-- The run of a setter follows the rule (R276-R280). -/
theorem runInputs_setter {s : State} {region : ProtRegion} {new : BitVec 32} {cap : CapDraw} {ins : List Input}
    (hidle : s.req.ctl = .idle) (hfree : s.serving = false) (hc : s.ccif = true)
    (hregs : protRegs s.cfg region = regs) (hnew : protBytes new region = regs.map v) (hnodup : regs.Nodup)
    (hprot : ∀ r ∈ regs, IsProtection r)
    (hm : makes ins
      (.host (.call (.setProtection region new) cap) :: List.replicate (4 * regs.length + 5) (.host .go))) :
    ∃ u, runInputs ins s = .next u ∧ SetterDone regs v s u := by
  obtain ⟨rsv, rest, hrest, run⟩ := runInputs_of_makes_cons hm
  have hcall := run _ _ (stepInput_call rsv hidle)
  have hstart : InSetter s (readReg s) (.protStatus regs (regs.map v))
      (hostGoto (.protStatus (protRegs s.cfg region) (protBytes new region)) (floatFstat rsv s)) := by
    rw [hregs, hnew]
    exact ((⟨rfl, fun _ _ => rfl, hc, rfl, rfl, rfl⟩ : InSetter s (readReg s) s.req.ctl s).floatFstat rsv).goto
  have probe := goes_probe (held := readReg s) (regs.map v) hfree hnodup hprot
  have hlen : 3 * regs.length + 3 + (regs.length + 2) = 4 * regs.length + 5 := by omega
  rw [← hlen] at hrest
  by_cases h : SetterAllows s.nvm.protMode regs v (readReg s)
  · have goes := probe.trans (goes_allowed hfree hnodup hprot (probe_decides.mpr h))
    rw [afterWrites_allowed h] at goes
    obtain ⟨u, -, hrun, hu, -⟩ := goes _ rest hstart hrest
    exact ⟨u, hcall.trans hrun, fun _ => hu, fun hn => absurd h hn⟩
  · have goes := probe.trans (goes_refused (regs.length + 1) (mt probe_decides.mp h))
    rw [afterWrites_refused h] at goes
    obtain ⟨u, -, hrun, hu, -⟩ := goes _ rest hstart hrest
    exact ⟨u, hcall.trans hrun, fun hn => absurd hn h, fun _ => hu⟩

variable {s u : State}

theorem SetterDone.inSetter (h : SetterDone regs v s u) :
    ∃ w, InSetter s w .idle u ∧ ∀ r ∉ regs, w r = readReg s r := by
  by_cases ha : SetterAllows s.nvm.protMode regs v (readReg s)
  · exact ⟨_, (h.allowed ha).idle, fun r hr => if_neg hr⟩
  · exact ⟨_, (h.refused ha).idle, fun r _ => rfl⟩

/-- A setter changes no register but its own and FSTAT. -/
theorem SetterDone.kept (h : SetterDone regs v s u) {r : Reg} (hr : r ∉ regs) (hne : r ≠ .fstat) :
    readReg u r = readReg s r := by
  obtain ⟨w, hu, hw⟩ := h.inSetter
  rw [hu.held r hne, hw r hr]

theorem SetterDone.kept_fprot (h : SetterDone regs v s u) (hr : ∀ i, .fprot i ∉ regs) : u.win.fprot = s.win.fprot :=
  Vector.ext fun i hi => h.kept (hr ⟨i, hi⟩) nofun

/-- The code and the value of a setter, its value being put together from its registers' bytes by `word` (R276). -/
theorem SetterDone.outcome {w : Nat} {word : (Reg → Byte) → BitVec w} (h : SetterDone regs v s u)
    (hne : .fstat ∉ regs) (hword : ∀ f g, (∀ r ∈ regs, f r = g r) → word f = word g)
    (hrule : (∀ r ∈ regs, (v r ^^^ readReg s r) &&& v r = 0) ↔ (word v ^^^ word (readReg s)) &&& word v = 0) :
    (u.req.ret.code, word (readReg u)) = setterOutcome s.nvm.protMode (word (readReg s)) (word v) := by
  have hfstat {r : Reg} (hr : r ∈ regs) : r ≠ .fstat := fun he => hne (he ▸ hr)
  by_cases ha : SetterAllows s.nvm.protMode regs v (readReg s)
  · obtain ⟨hu, hcode⟩ := h.allowed ha
    have hval : word (readReg u) = word v := hword _ _ fun r hr => (hu.held r (hfstat hr)).trans (if_pos hr)
    rw [hcode, hval]
    obtain hm | hsub := ha
    · rw [setterOutcome, if_pos hm]
    · rw [setterOutcome, if_pos (hrule.mp hsub), ite_self]
  · obtain ⟨hu, hcode⟩ := h.refused ha
    have hval : word (readReg u) = word (readReg s) := hword _ _ fun r hr => hu.held r (hfstat hr)
    obtain ⟨hm, hsub⟩ := not_or.mp ha
    rw [hcode, hval, setterOutcome, if_neg hm, if_neg (mt hrule.mpr hsub)]

end Setter

/-! ## The 8-bit setters -/

theorem extractLsb'_setWidth_byte (b : Byte) : (b.setWidth 32).extractLsb' 0 8 = b :=
  BitVec.eq_of_toNat_eq (by simp [BitVec.extractLsb'_toNat]; omega)

/-- An 8-bit setter's run (R276). -/
theorem runInputs_byteSetter {s : State} {region : ProtRegion} {new : Byte} {r : Reg} {cap : CapDraw}
    {ins : List Input} (hidle : s.req.ctl = .idle) (hfree : s.serving = false) (hc : s.ccif = true)
    (hregs : protRegs s.cfg region = [r]) (hnew : protBytes (new.setWidth 32) region = [new]) (hr : IsProtection r)
    (hm : makes ins (.host (.call (.setProtection region (new.setWidth 32)) cap) :: List.replicate 9 (.host .go))) :
    ∃ u, runInputs ins s = .next u ∧ SetterDone [r] (fun _ => new) s u ∧
      (u.req.ret.code, readReg u r) = setterOutcome s.nvm.protMode (readReg s r) new := by
  obtain ⟨u, hrun, hdone⟩ := runInputs_setter (v := fun _ => new) hidle hfree hc hregs hnew (List.nodup_singleton r)
    (List.forall_mem_singleton.mpr hr) hm
  refine ⟨u, hrun, hdone, hdone.outcome (word := fun f => f r) (by simpa using hr.ne_fstat.symm)
    (fun f g h => h r List.mem_cons_self) List.forall_mem_singleton⟩

/-- Settles O55: each 8-bit setter is a setter of its one register, and the refusal is the step that reads CCIF = 0. -/
theorem byteProtectionSetters : Obligations.ByteProtectionSetters := by
  intro s new cap ins hidle hfree
  refine ⟨fun hc hm => ?_, fun hc hm => ?_, fun hc p hm => ?_⟩
  · obtain ⟨u, hrun, hdone, hout⟩ := runInputs_byteSetter (region := .dflash) (new := new) hidle hfree hc rfl
      (congrArg (· :: []) (extractLsb'_setWidth_byte new)) (.inl rfl) hm
    obtain ⟨w, hu, -⟩ := hdone.inSetter
    exact ⟨u, hrun, hu.ctl, hout, hdone.kept (r := .feprot) (by simp) nofun, hdone.kept_fprot (by simp), hu.nvm,
      hu.seq⟩
  · obtain ⟨u, hrun, hdone, hout⟩ := runInputs_byteSetter (region := .eeram) (new := new) hidle hfree hc rfl
      (congrArg (· :: []) (extractLsb'_setWidth_byte new)) (.inr (.inl rfl)) hm
    obtain ⟨w, hu, -⟩ := hdone.inSetter
    exact ⟨u, hrun, hu.ctl, hout, hdone.kept (r := .fdprot) (by simp) nofun, hdone.kept_fprot (by simp), hu.nvm,
      hu.seq⟩
  · obtain ⟨rsv, rest, hrest, run⟩ := runInputs_of_makes_cons hm
    obtain ⟨rsv', last⟩ := runInputs_of_makes_last_go hrest
    have hgo := hostGo_protStatus_refused (regs := protRegs s.cfg p) (new := protBytes (new.setWidth 32) p)
      (s := floatFstat rsv' (hostGoto _ (floatFstat rsv s))) rfl (by simpa [State.ccif] using hc)
    have hrun := (run _ _ (stepInput_call rsv hidle)).trans ((last _).trans hgo)
    exact ⟨_, [_, _], hrun, rfl, rfl, rfl, rfl, rfl, rfl, rfl⟩

/-! ## The 32-bit setter -/

theorem append_eq_zero_iff {w v : Nat} (x : BitVec w) (y : BitVec v) : x ++ y = 0 ↔ x = 0 ∧ y = 0 := by
  constructor
  · intro h
    have hx := BitVec.extractLsb'_append_eq_left (a := x) (b := y)
    have hy := BitVec.extractLsb'_append_eq_right (a := x) (b := y)
    rw [h] at hx hy
    exact ⟨hx.symm.trans (by simp), hy.symm.trans (by simp)⟩
  · rintro ⟨rfl, rfl⟩
    exact BitVec.zero_append_zero

theorem append_xor_and_eq_zero_iff {w v : Nat} (x x' : BitVec w) (y y' : BitVec v) :
    (x ++ y ^^^ x' ++ y') &&& (x ++ y) = 0 ↔ (x ^^^ x') &&& x = 0 ∧ (y ^^^ y') &&& y = 0 := by
  rw [BitVec.xor_append, BitVec.and_append, append_eq_zero_iff]

/-- The 32-bit value of four bytes, most significant first (R275). -/
def word4 (b0 b1 b2 b3 : Byte) : BitVec 32 := b0 ++ b1 ++ b2 ++ b3

/-- The rule on the 32-bit value is the rule on its bytes. -/
theorem word4_xor_and_eq_zero_iff (a b c d a' b' c' d' : Byte) :
    (word4 a b c d ^^^ word4 a' b' c' d') &&& word4 a b c d = 0 ↔
      (a ^^^ a') &&& a = 0 ∧ (b ^^^ b') &&& b = 0 ∧ (c ^^^ c') &&& c = 0 ∧ (d ^^^ d') &&& d = 0 := by
  have hab := append_xor_and_eq_zero_iff a a' b b'
  have habc := append_xor_and_eq_zero_iff (a ++ b) (a' ++ b') c c'
  have habcd := append_xor_and_eq_zero_iff (a ++ b ++ c) (a' ++ b' ++ c') d d'
  rw [habc, hab, and_assoc, and_assoc] at habcd
  exact habcd

/-- A 32-bit value is that of its bytes (R275). -/
theorem word4_extractLsb' (v : BitVec 32) :
    word4 (v.extractLsb' 24 8) (v.extractLsb' 16 8) (v.extractLsb' 8 8) (v.extractLsb' 0 8) = v := by
  rw [word4, BitVec.extractLsb'_append_extractLsb'_eq_extractLsb' (start₁ := 16) (len₁ := 8) rfl,
    BitVec.extractLsb'_append_extractLsb'_eq_extractLsb' (start₁ := 8) (len₁ := 8) rfl,
    BitVec.extractLsb'_append_extractLsb'_eq_extractLsb' (start₁ := 0) (len₁ := 8) rfl]
  exact BitVec.extractLsb'_eq_self

/-- Any bytes are the values at distinct registers of some assignment. -/
theorem exists_map_eq {regs : List Reg} {bytes : List Byte} (hnodup : regs.Nodup) (hlen : regs.length = bytes.length) :
    ∃ v : Reg → Byte, bytes = regs.map v := by
  refine ⟨fun r => bytes.getD (regs.idxOf r) 0, List.ext_getElem (by simp [hlen]) fun i hi _ => ?_⟩
  simp [hnodup.idxOf_getElem, hi]

/-- The registers of the P-Flash protection value, most significant first (R275). -/
theorem protRegs_pflash (cfg : Config) : protRegs cfg .pflash =
    [.fprot (cfg.fprotOrder.get 0), .fprot (cfg.fprotOrder.get 1), .fprot (cfg.fprotOrder.get 2),
      .fprot (cfg.fprotOrder.get 3)] :=
  List.ext_getElem (by simp [protRegs]) fun i hi _ => by
    have : i < 4 := by simpa [protRegs] using hi
    interval_cases i <;> simp [protRegs, Vector.get_eq_getElem]

/-- P_FPROT_ORDER is a permutation (R9), so a setter accesses each register once. -/
theorem protRegs_pflash_nodup {c : Config} (h : c.wf = true) : (protRegs c .pflash).Nodup := by
  simp only [Config.wf, Bool.and_eq_true, decide_eq_true_eq] at h
  obtain ⟨⟨⟨⟨-, hnodup⟩, -⟩, -⟩, -⟩ := h
  exact hnodup.map fun i j hij => Reg.fprot.inj hij

/-- The 32-bit value of what the FPROT registers hold, in the order P_FPROT_ORDER. -/
def fprotWord (cfg : Config) (f : Reg → Byte) : BitVec 32 :=
  word4 (f (.fprot (cfg.fprotOrder.get 0))) (f (.fprot (cfg.fprotOrder.get 1))) (f (.fprot (cfg.fprotOrder.get 2)))
    (f (.fprot (cfg.fprotOrder.get 3)))

theorem protWord_eq (cfg : Config) (s : State) : protWord cfg s.win = fprotWord cfg (readReg s) := rfl

theorem fprotWord_congr {cfg : Config} {f g : Reg → Byte} (h : ∀ r ∈ protRegs cfg .pflash, f r = g r) :
    fprotWord cfg f = fprotWord cfg g := by
  simp only [protRegs_pflash, List.forall_mem_cons] at h
  obtain ⟨h0, h1, h2, h3, -⟩ := h
  rw [fprotWord, h0, h1, h2, h3, fprotWord]

theorem fprotWord_xor_and_eq_zero_iff (cfg : Config) (v old : Reg → Byte) :
    (∀ r ∈ protRegs cfg .pflash, (v r ^^^ old r) &&& v r = 0) ↔
      (fprotWord cfg v ^^^ fprotWord cfg old) &&& fprotWord cfg v = 0 := by
  rw [protRegs_pflash]
  simpa [fprotWord] using (word4_xor_and_eq_zero_iff ..).symm

/-- Registers that hold the bytes of a value hold the value. -/
theorem fprotWord_of_protBytes {cfg : Config} {new : BitVec 32} {v : Reg → Byte}
    (h : protBytes new .pflash = (protRegs cfg .pflash).map v) : fprotWord cfg v = new := by
  simp only [protBytes, protRegs_pflash, List.map_cons, List.cons.injEq] at h
  obtain ⟨h0, h1, h2, h3, -⟩ := h
  rw [fprotWord, ← h0, ← h1, ← h2, ← h3, word4_extractLsb']

/-- Settles O56: the 32-bit setter is a setter of the four FPROT registers, and the rule on the value is the rule on its
bytes. -/
theorem pFlashProtectionSetter : Obligations.PFlashProtectionSetter := by
  intro s new cap ins hwf hidle hfree hc hm
  have hnodup := protRegs_pflash_nodup hwf
  have hlen : (protRegs s.cfg .pflash).length = 4 := congrArg List.length (protRegs_pflash s.cfg)
  have hprot : ∀ r ∈ protRegs s.cfg .pflash, IsProtection r := by
    rw [protRegs_pflash]
    simp [IsProtection]
  have hne : .fstat ∉ protRegs s.cfg .pflash := fun h => (hprot _ h).ne_fstat rfl
  obtain ⟨v, hv⟩ := exists_map_eq (bytes := protBytes new .pflash) hnodup hlen
  obtain ⟨u, hrun, hdone⟩ := runInputs_setter hidle hfree hc rfl hv hnodup hprot (by rwa [hlen])
  obtain ⟨w, hu, -⟩ := hdone.inSetter
  have hout := hdone.outcome hne (fun _ _ => fprotWord_congr) (fprotWord_xor_and_eq_zero_iff s.cfg v (readReg s))
  rw [fprotWord_of_protBytes hv] at hout
  exact ⟨u, hrun, hu.ctl, hout, hdone.kept (r := .fdprot) (by simp [protRegs]) nofun,
    hdone.kept (r := .feprot) (by simp [protRegs]) nofun, hu.nvm, hu.seq⟩

end Sys2Proof.Machine
end

section
/-! PROOFS. The reset of a quiet block (70_reset_and_hazards.md R330, R331). -/

namespace Sys2Proof.Machine

/-- Nothing is in operation: both FSMs are idle and so is the controller (R332; log 54). -/
theorem State.quiet_of_idle {s : State} (hseq : s.seq.state = .idle) (hswp : s.swp.state = .idle)
    (hbusy : s.nvm.busy = false) : s.quiet = true := by
  simp [State.quiet, hseq, hswp, hbusy]

/-- A reset of a quiet block goes through (the converse of `resetStep_next`). -/
theorem resetStep_of_quiet {s : State} (l : Launch) (h : s.quiet = true) :
    resetStep l s = .next (State.launch s.cfg l s.nvm.flash s.nvm.ifr s.nvm.eeram s.history s.inputs s.tick) := by
  simp [resetStep, h]

/-- Settles O35: a reset of a quiet block goes to the state of its launch, which holds each value. The draw of FSTAT's
reserved bits before it is lost, as the launch sets the window anew. -/
theorem resetLeavesLaunchState : Obligations.ResetLeavesLaunchState := by
  intro s rsv l hseq hswp hbusy
  have hquiet : (floatFstat rsv s).quiet = true := State.quiet_of_idle hseq hswp hbusy
  exact ⟨_, resetStep_of_quiet l hquiet, rfl, rfl, rfl, rfl, rfl, rfl, rfl, rfl, rfl, rfl, rfl, rfl, rfl⟩

end Sys2Proof.Machine
end
